-- ==== Sys2Proof/Word.lean ====
section
/-!
DEFINITION. The value types of SeedHash-4 (spec/00_scope.md R9, R11): 32-bit words, the 64-bit LCG value, bytes,
lane numbers, and the two fixed arrays a lane holds (a block of 16 words, a digest of 5 words).
-/

namespace Sys2Proof

/-- A `u32`: one register, one bus datum, one command word (R9, R11). -/
abbrev Word := BitVec 32

/-- A `u64`: the value the LCG steps (R9, R24). -/
abbrev DWord := BitVec 64

/-- One byte lane of the bus (R57). -/
abbrev Byte := BitVec 8

/-- A lane number `l` in 0..3 (R9 `NLANES`, R72). -/
abbrev Lane := Fin 4

/-- A block: 16 words, the input of one digest (R17, R21). -/
abbrev Block := Vector Word 16

/-- A digest: the five words `h0..h4` (R17, R22). -/
abbrev Digest := Vector Word 5

end Sys2Proof
end

