-- ==== Sys2Proof/Syntax.lean ====
section
/-!
DEFINITION. The seven commands of SeedHash-4 (spec/30_encoding.md R73), one constructor per row of the opcode table.
-/

namespace Sys2Proof

/-- A command (R73). The only operand is the lane number of the scalar commands (R72); every other operand is implicit
in the register map. -/
inductive Instr where
  /-- `DIGEST l` (R110). -/
  | digest (l : Lane)
  /-- `DIGEST4` (R111). -/
  | digest4
  /-- `SEED l` (R140). -/
  | seed (l : Lane)
  /-- `SEED4` (R141). -/
  | seed4
  /-- `DSEED l` (R142). -/
  | dseed (l : Lane)
  /-- `DSEED4` (R143). -/
  | dseed4
  /-- `LCG` (R144). -/
  | lcg
deriving DecidableEq, Repr

end Sys2Proof
end

