-- ==== Sys2Proof/Machine/Bus.lean ====
section
/-!
DEFINITION. The names the bus side of SeedHash-4 uses: the registers of the window (spec/20_memory.md R51), the error
codes (spec/60_exceptions.md R180), the lines of a host program (spec/42_host_access.md R163, R165), the host's accesses
(spec/00_scope.md R18), and which agent moves next.
-/

namespace Sys2Proof.Machine

/-- A register of the window (R51, R14). -/
inductive Reg where
  | msg (l : Lane) (i : Fin 16)
  | dig (l : Lane) (j : Fin 5)
  | seed (l : Lane)
  | lcgLo
  | lcgHi
  | cmd
  | status
deriving DecidableEq, Repr

/-- The causes of an error (R180). -/
inductive ErrorCode where
  /-- Code 1, `ILLEGAL_CMD`: a legal write of an illegal word to `CMD` while idle. -/
  | illegalCmd
  /-- Code 2, `BUSY_WRITE`: a legal write to a register other than `STATUS` while busy. -/
  | busyWrite
  /-- Code 3, `BAD_ACCESS`: a wrong size, a misaligned offset or a reserved offset. -/
  | badAccess
deriving DecidableEq, Repr

/-- A line of a host program: one bus access of 4 bytes at a window offset (R163), or the loop `poll` (R165). The datum
of a `wr` line is a number, as its bus transaction is (log entry 13). -/
inductive HostLine where
  /-- `wr OFF, VAL`. -/
  | wr (off : Nat) (val : Word)
  /-- `rd OFF -> vN`. -/
  | rd (off : Nat) (dst : Nat)
  /-- `poll OFF, MASK, VAL`. -/
  | poll (off : Nat) (mask val : Word)
deriving DecidableEq, Repr

/-- What the host does to the unit, one at a time (R18, R62). -/
inductive Event where
  /-- A line of the host program (R162). -/
  | line (l : HostLine)
  /-- A host read of `n` bytes at byte address `addr` of the host's address space (R50, R160), its answer kept as host
  value `dst`. -/
  | read (addr n dst : Nat)
  /-- A host write of `n` bytes at byte address `addr` (R50, R161). Only a 4-byte write ever uses its datum, so a word
  holds all of it that matters. -/
  | write (addr n : Nat) (v : Word)
deriving DecidableEq, Repr

/-- What moves next (R18, R19). -/
inductive Turn where
  /-- Reset is asserted. -/
  | reset
  /-- The unit's completion step of the pending command. -/
  | unit (i : Instr)
  /-- The host, or a cycle without an access. -/
  | host
deriving DecidableEq, Repr

/-- The host values `v0, v1, ...` that hold a value: number and value, in strictly rising order of the number (R162). -/
abbrev HostVals := List (Nat × Word)

end Sys2Proof.Machine
end

