-- ==== Sys2Proof/Config.lean ====
section
/-!
DEFINITION. What an implementation fixes and what the spec leaves open (spec/00_scope.md R9, R10; spec/10_state.md R41;
spec/93_implementation_defined.md). Every constant is opaque: no proof can see its value.
-/

namespace Sys2Proof.Config

/-- `LCG_M`, the multiplier of the LCG (R9, R10: OPEN; log entry 9). -/
opaque lcgM : DWord

/-- `LCG_A`, the increment of the LCG (R9, R10: OPEN; log entry 9). -/
opaque lcgA : DWord

/-- Which 0x200-byte slot of the host's address space holds the window (R50; log entry 10). -/
opaque baseIndex : Nat

/-- `BASE`, the byte address of the window: OPEN, with `BASE mod 0x200 = 0` (R50). -/
def base : Nat := 0x200 * baseIndex

/-- `LATENCY(cmd)` of the acceptance that is the `draw`-th free value of the run: how many host accesses or clock cycles
pass before the command completes (R208: OPEN, finite, no bound; log entry 5). -/
opaque latency (cmd : Instr) (draw : Nat) : Nat

/-- What a read of `DIG`, `SEED`, `LCG_LO` or `LCG_HI` returns while busy: the `draw`-th free value (R207; log entry 4). -/
opaque busyRead (draw : Nat) : Word

/-- What data register `r` holds after the reset event that is the `draw`-th free value (R200; log entry 3). -/
opaque resetReg (draw : Nat) (r : Machine.Reg) : Word

/-- `norm`, the host's normalisation of message words 0 to 5 (R171, D36: OPEN; log entry 18). -/
opaque norm (w : Word) : Word

/-- Where byte `b` of the hardware identity stands: in message word 6 (0) or 7 (1), at which byte of it (R173: not in the
source; log entry 18). -/
opaque hardwarePlace (b : Fin 6) : Fin 2 × Fin 4

/-- The fixed constant XORed into message word 6 (0) or 7 (1) (R173: not in the source; log entry 18). -/
opaque hardwareConst (w : Fin 2) : Word

/-- Which of message words 6 (0) and 7 (1) takes the frame counter (R173: not in the source; log entry 18). -/
opaque frameWord : Fin 2

/-- Which of message words 10 (0), 11 (1) and 12 (2) is the key input (R175: not in the source; log entry 18). -/
opaque keyPlace : Fin 3

end Sys2Proof.Config
end

