-- ==== Sys2Proof/Decode.lean ====
section
/-!
DEFINITION. The command encoding of spec/30_encoding.md: format C (R71), `decode` (R74), the encoder (R77), the
mnemonic syntax (R78), and the decoder on the words of the opcode table.
-/

namespace Sys2Proof

/-- Why a command word is illegal: the three cases of R75. -/
inductive Illegal where
  /-- `RSV`, bits 31:6, is not 0. -/
  | reservedBits
  /-- `OP` is 0x0 or one of 0x8 to 0xF. -/
  | noOperation
  /-- `LANE` is not 0 in a command that names no lane. -/
  | laneNotZero
deriving DecidableEq, Repr

/-- The answer of `decode` (R74): a command, or illegal with the case of R75 that says why. -/
inductive Decoded where
  | command (i : Instr)
  | illegal (why : Illegal)
deriving DecidableEq, Repr

/-- The command, where there is one. -/
def Decoded.toOption : Decoded → Option Instr
  | .command i => some i
  | .illegal _ => none

/-- Field `OP`, bits 3:0 (R71). -/
def opField (c : Word) : BitVec 4 := c.extractLsb' 0 4

/-- Field `LANE`, bits 5:4, as the unsigned lane number of R72. -/
def laneField (c : Word) : Lane := (c.extractLsb' 4 2).toFin

/-- Field `RSV`, bits 31:6 (R71). -/
def rsvField (c : Word) : BitVec 26 := c.extractLsb' 6 26

/-- A command that names no lane is legal only with `LANE = 0` (R73, R74). -/
def unlaned (l : Lane) (i : Instr) : Decoded :=
  if l = 0 then .command i else .illegal .laneNotZero

/-- `decode(c)` of R74, total on all 32-bit words. -/
def decode (c : Word) : Decoded :=
  if rsvField c ≠ 0 then .illegal .reservedBits
  else
    match (opField c).toNat with
    | 1 => .command (.digest (laneField c))
    | 2 => unlaned (laneField c) .digest4
    | 3 => .command (.seed (laneField c))
    | 4 => unlaned (laneField c) .seed4
    | 5 => .command (.dseed (laneField c))
    | 6 => unlaned (laneField c) .dseed4
    | 7 => unlaned (laneField c) .lcg
    | _ => .illegal .noOperation

/-- A word of format C with `RSV = 0` (R71). -/
def formatC (op : BitVec 4) (l : Lane) : Word :=
  op.setWidth 32 ||| (BitVec.ofNat 32 l.val <<< 4)

/-- The word of a command (R77, R78 `encode`). -/
def encode : Instr → Word
  | .digest l => formatC 0x1 l
  | .digest4 => formatC 0x2 0
  | .seed l => formatC 0x3 l
  | .seed4 => formatC 0x4 0
  | .dseed l => formatC 0x5 l
  | .dseed4 => formatC 0x6 0
  | .lcg => formatC 0x7 0

/-- The mnemonic syntax of a command (R78). -/
def asmText : Instr → String
  | .digest l => "DIGEST " ++ toString l.val
  | .digest4 => "DIGEST4"
  | .seed l => "SEED " ++ toString l.val
  | .seed4 => "SEED4"
  | .dseed l => "DSEED " ++ toString l.val
  | .dseed4 => "DSEED4"
  | .lcg => "LCG"

/-- The decoder on an instruction whose bits are numbered as the opcode table numbers them: one 32-bit word (R70), with
the bits at `nbits` and above zero. A command has one word and no more, so a longer instruction is none. -/
def decodeTableWord (nbits w : Nat) : Option Instr :=
  if nbits ≤ 32 then (decode (BitVec.ofNat 32 (w % 2 ^ nbits))).toOption else none

end Sys2Proof
end

