-- ==== Sys2Proof/Machine/State.lean ====
section
/-!
DEFINITION. The state of the machine (spec/10_state.md R41) with the host's side of it, the reasons a step can stop, and
the state right after reset (R39).
-/

namespace Sys2Proof.Machine

/-- Reasons the machine could stop with a fault: there are none. The unit has no trap mechanism (R187), a recorded error
is a value in `STATUS` and not a stop (R189), and every register holds a value (log entries 2 and 20). No meaning raises
one. -/
inductive Fault where
deriving DecidableEq, Repr

/-- Reasons the model gives a step no meaning. -/
inductive Refusal where
  /-- The command named has no meaning in the model yet. Raised by `exec`'s arm of that command alone. Safe: the model
  stops where the machine goes on. -/
  | notModelled (mnemonic : String)
  /-- A host access outside the window, at the offset or address given: what it does is the platform's (R54, U12).
  Raised by the host's accesses and lines, never by a command. Safe: the model stops and claims nothing. -/
  | outsideWindow (at_ : Nat)
deriving DecidableEq, Repr

/-- The state: the unit's registers and control state as R41 lists them, then the inputs from outside, then the model's own
counters. `STATUS` is computed from `busy`, `err` and `ecode` (R26); `CMD` holds no state (R25). -/
structure State where
  /-- `MSG[l][i]` (R21). -/
  msg : Vector Block 4
  /-- `DIG[l][j]` (R22). -/
  dig : Vector Digest 4
  /-- `SEED[l]` (R23). -/
  seed : Vector Word 4
  /-- `LCG_LO` (R24). -/
  lcgLo : Word
  /-- `LCG_HI` (R24). -/
  lcgHi : Word
  /-- `STATUS.BUSY` (R26, R27). -/
  busy : Bool
  /-- `STATUS.ERR` (R26, R28). -/
  err : Bool
  /-- `STATUS.ECODE` (R26, R29). -/
  ecode : BitVec 4
  /-- `PENDING` (R31). -/
  pending : Option Instr
  /-- The host lines and host accesses still to come, oldest first (R18, R162; log entry 7). -/
  inputs : List Event
  /-- The assertions of reset still to come: how many steps pass before the first, and between each and the next (R19,
  R201; log entry 25). -/
  resets : List Nat
  /-- The host values (R162, R168; log entry 8). -/
  vals : HostVals
  /-- The last access of the host was an accepted write to `CMD` (R168; log entry 26). -/
  cmdLast : Bool
  /-- The model's own: host accesses or cycles still to pass before the pending command completes (R208; log entry 5). -/
  delay : Nat
  /-- The model's own: how many free values the run has drawn (log entry 6). -/
  draws : Nat
deriving DecidableEq, Repr

/-- The machine right after reset (R39): idle, no error, nothing pending. The spec gives the data registers no value; 0
is the model's choice (log entry 1). No host access is queued (log entry 7) and no reset is to come
(log entry 25). -/
def State.reset : State where
  msg := Vector.replicate 4 (Vector.replicate 16 0)
  dig := Vector.replicate 4 (Vector.replicate 5 0)
  seed := Vector.replicate 4 0
  lcgLo := 0
  lcgHi := 0
  busy := false
  err := false
  ecode := 0
  pending := none
  inputs := []
  resets := []
  vals := []
  cmdLast := false
  delay := 0
  draws := 0

end Sys2Proof.Machine
end

