-- ==== Sys2Proof/Machine/Flags.lean ====
section
/-!
DEFINITION. The register `STATUS` (spec/10_state.md R26 to R29): its word, its legal values, and the two operations on
its error fields: `raise Error(code)` (spec/60_exceptions.md R183), which is all an error does, and the clearing of the
error (R28, R188), which is all that ends one.
-/

namespace Sys2Proof.Machine

/-- The number of an error code (R180). -/
def ErrorCode.code : ErrorCode → BitVec 4
  | .illegalCmd => 1
  | .busyWrite => 2
  | .badAccess => 3

/-- The word a read of `STATUS` returns (R26): bits 31:8 are 0, `ECODE`, bits 3:2 are 0, `ERR`, `BUSY`. -/
def State.statusWord (s : State) : Word :=
  (0 : BitVec 24) ++ s.ecode ++ (0 : BitVec 2) ++ BitVec.ofBool s.err ++ BitVec.ofBool s.busy

/-- The legal values of `STATUS` (R26): `ECODE` is 0 when `ERR = 0`, and 1, 2 or 3 when `ERR = 1`. -/
def State.statusLegal (s : State) : Bool :=
  if s.err then s.ecode == 1 || s.ecode == 2 || s.ecode == 3 else s.ecode == 0

/-- `raise Error(code)` (R183): `ERR` becomes 1, and `ECODE` the code if no error stood recorded; the first error's code
is kept. Nothing else changes. -/
def State.raiseError (s : State) (c : ErrorCode) : State :=
  { s with err := true, ecode := if s.err then s.ecode else c.code }

/-- The clearing of the recorded error (R28, R188). -/
def State.clearError (s : State) : State := { s with err := false, ecode := 0 }

/-- A legal write of `v` to `STATUS` (R28): bit 1 clears the error, every other bit is ignored. -/
def State.writeStatus (s : State) (v : Word) : State := if v.getLsbD 1 then s.clearError else s

end Sys2Proof.Machine
end

