-- ==== Sys2Proof/Machine/Ops.lean ====
section
/-!
DEFINITION. The named operations on the state: writing result registers, accepting and completing a command
(spec/10_state.md R33, R34), the reset event (spec/70_reset_and_hazards.md R200), host values, and the counters that
decide when a pending command completes (R208) and when reset comes (R19).
-/

namespace Sys2Proof.Machine

/-- `DIG[l][0..4] <- d`. -/
def State.setDig (s : State) (l : Lane) (d : Digest) : State := { s with dig := s.dig.set l.val d }

/-- `DIG[0..3][0..4] <- ds`, all lanes at once. -/
def State.setDigs (s : State) (ds : Vector Digest 4) : State := { s with dig := ds }

/-- `SEED[l] <- w`. -/
def State.setSeed (s : State) (l : Lane) (w : Word) : State := { s with seed := s.seed.set l.val w }

/-- `SEED[0..3] <- ws`, all lanes at once. -/
def State.setSeeds (s : State) (ws : Vector Word 4) : State := { s with seed := ws }

/-- `LCG = LCG_HI ++ LCG_LO` (R24). -/
def State.lcg (s : State) : DWord := s.lcgHi ++ s.lcgLo

/-- `LCG_HI <- x[63:32]; LCG_LO <- x[31:0]` (R144). -/
def State.setLcg (s : State) (x : DWord) : State :=
  { s with lcgHi := x.extractLsb' 32 32, lcgLo := x.extractLsb' 0 32 }

/-- A value for each lane, for the 4-lane commands' `for l in 0..3`. -/
def eachLane {α : Type} (f : Lane → α) : Vector α 4 := #v[f 0, f 1, f 2, f 3]

/-- The acceptance of a command (R33): it is pending, the unit is busy, no data register changes. The model draws here
how long the command will take (R208; log entry 5). -/
def State.accept (s : State) (i : Instr) : State :=
  { s with
    pending := some i, busy := true, cmdLast := true
    delay := Config.latency i s.draws, draws := s.draws + 1 }

/-- The end of a completion step (R34): nothing pending, not busy. -/
def State.complete (s : State) : State := { s with pending := none, busy := false }

/-- The command whose completion step is next: the pending one, once its delay has run out (R34, R208). -/
def State.due (s : State) : Option Instr := if s.delay = 0 then s.pending else none

/-- A clock cycle passes without an access (R208). -/
def State.tick (s : State) : State := { s with delay := s.delay - 1 }

/-- The host makes its next access, after which `rest` are still to come (R162, R208). -/
def State.takeEvent (s : State) (rest : List Event) : State :=
  { s with inputs := rest, delay := s.delay - 1, cmdLast := false }

/-- One step fewer before the next reset. -/
def countDown : List Nat → List Nat
  | [] => []
  | n :: rest => (n - 1) :: rest

/-- A step that is not a reset passes (R201; log entry 25). -/
def State.passStep (s : State) : State := { s with resets := countDown s.resets }

/-- Reset is asserted now (R19, R201). -/
def State.resetDue (s : State) : Bool := s.resets.head? == some 0

/-- What moves next, as plain data: reset where it is asserted, whatever else stands ready (R201), else the completion
that is due (R34), else the host (R62). -/
def State.turn (s : State) : Turn :=
  if s.resetDue then .reset
  else
    match s.due with
    | some i => .unit i
    | none => .host

/-- One free value has been drawn (log entry 6). -/
def State.bumpDraws (s : State) : State := { s with draws := s.draws + 1 }

/-- The reset event (R200): a pending command is abandoned and writes nothing, `STATUS` is 0, and the data registers
hold unspecified values, whether or not they were written before (log entry 3). The host keeps its values and the
accesses it has still to make (log entry 7), and that reset is no longer to come. -/
def State.resetUnit (s : State) : State :=
  { s with
    msg := Vector.ofFn fun l => Vector.ofFn fun i => Config.resetReg s.draws (.msg l i)
    dig := Vector.ofFn fun l => Vector.ofFn fun j => Config.resetReg s.draws (.dig l j)
    seed := Vector.ofFn fun l => Config.resetReg s.draws (.seed l)
    lcgLo := Config.resetReg s.draws .lcgLo
    lcgHi := Config.resetReg s.draws .lcgHi
    busy := false, err := false, ecode := 0, pending := none, delay := 0
    resets := s.resets.tail
    draws := s.draws + 1 }

/-- Host value `n` becomes `v`, the list kept in strictly rising order. -/
def HostVals.put : HostVals → Nat → Word → HostVals
  | [], n, v => [(n, v)]
  | (m, w) :: rest, n, v =>
    if n < m then (n, v) :: (m, w) :: rest
    else if n = m then (n, v) :: rest
    else (m, w) :: HostVals.put rest n v

/-- Host value `n`, if it holds one. -/
def HostVals.get? : HostVals → Nat → Option Word
  | [], _ => none
  | (m, w) :: rest, n => if n = m then some w else HostVals.get? rest n

/-- The canonical form of the host values: numbers strictly rising. -/
def HostVals.wf : HostVals → Bool
  | [] => true
  | (m, _) :: rest => rest.all (fun p => decide (m < p.1)) && HostVals.wf rest

/-- `vN <- v` (R163). -/
def State.setVal (s : State) (n : Nat) (v : Word) : State := { s with vals := s.vals.put n v }

/-- An event put in front of those still to come. -/
def State.pushInput (s : State) (e : Event) : State := { s with inputs := e :: s.inputs }

/-- A reset asserted now is put off by one step. -/
def postpone : List Nat → List Nat
  | 0 :: rest => 1 :: rest
  | ns => ns

/-- The state in which the command of word `w` is the very next thing to happen: pending, busy, no delay left, and a
reset asserted now put off until after it. An illegal word starts nothing (R75), so for it the next thing is the host's
write of that word to `CMD` (R181). -/
def State.placeCommand (s : State) (nbits w : Nat) : State :=
  match decodeTableWord nbits w with
  | some i => { s with pending := some i, busy := true, delay := 0, resets := postpone s.resets }
  | none =>
    { s with
      pending := none, busy := false, delay := 0, resets := postpone s.resets
      inputs := .line (.wr 0x1C0 (BitVec.ofNat 32 (w % 2 ^ nbits))) :: s.inputs }

end Sys2Proof.Machine
end

