-- ==== Sys2Proof/WellFormed.lean ====
section
/-!
DEFINITION. Which commands and host lines are well formed. A command is well formed by its type: its one operand is a
lane number 0 to 3 (spec/30_encoding.md R72). A host line is well formed when its offset is a window offset
(spec/20_memory.md R50, spec/42_host_access.md R162). A line that is misaligned or names a reserved offset is well
formed, since the unit answers it (R53, R55).
-/

namespace Sys2Proof

/-- The lane operand of a command, where it has one (R72). -/
def Instr.lane? : Instr → Option Lane
  | .digest l => some l
  | .digest4 => none
  | .seed l => some l
  | .seed4 => none
  | .dseed l => some l
  | .dseed4 => none
  | .lcg => none

/-- A command is well formed when its lane operand fits the field `LANE` (R71, R72). -/
def Instr.WellFormed (i : Instr) : Bool := i.lane?.all (fun l => decide (l.val < 4))

/-- The window offset a line accesses (R163, R165). -/
def Machine.HostLine.off : Machine.HostLine → Nat
  | .wr off _ => off
  | .rd off _ => off
  | .poll off _ _ => off

/-- A host line is well formed when its offset lies in the window of 0x200 bytes (R50, R162). -/
def Machine.HostLine.WellFormed (h : Machine.HostLine) : Bool := decide (h.off < 0x200)

end Sys2Proof
end

