-- ==== Sys2Proof/Machine/Operands.lean ====
section
/-!
DEFINITION. The window's operand forms: the register map and the offset decode (spec/20_memory.md R51, R52), what a
legal access is (R55), the value and the update of each register, the byte lanes of the bus (R57), the platform address
of the window (R50), and the bit operations of spec/00_scope.md R12 and R13.
-/

namespace Sys2Proof.Machine

/-- `rotl32(x, n)` for `0 < n < 32` (R12). -/
def rotl32 (x : Word) (n : Nat) : Word := (x <<< n) ||| (x >>> (32 - n))

/-- Byte `k` of a word: bits `8k+7 : 8k` (R57). -/
def busByte (v : Word) (k : Nat) : Byte := v.extractLsb' (8 * k) 8

/-- The word whose byte lanes 0 to 3 carry the given bytes (R57). -/
def wordOfBusBytes (b0 b1 b2 b3 : Byte) : Word := b3 ++ b2 ++ b1 ++ b0

/-- `bswap32(x)`: the four bytes reversed (R13). -/
def bswap32 (x : Word) : Word := wordOfBusBytes (busByte x 3) (busByte x 2) (busByte x 1) (busByte x 0)

/-- The window offset of a register (R51). -/
def Reg.offset : Reg → Nat
  | .msg l i => 0x40 * l.val + 4 * i.val
  | .dig l j => 0x100 + 0x20 * l.val + 4 * j.val
  | .seed l => 0x180 + 4 * l.val
  | .lcgLo => 0x190
  | .lcgHi => 0x194
  | .cmd => 0x1C0
  | .status => 0x1C4

/-- A data register: one that holds a word of its own (R38). -/
def Reg.isData : Reg → Bool
  | .msg _ _ | .dig _ _ | .seed _ | .lcgLo | .lcgHi => true
  | .cmd | .status => false

/-- The registers whose reads are free values while busy (R207). -/
def Reg.drawnWhenBusy : Reg → Bool
  | .dig _ _ | .seed _ | .lcgLo | .lcgHi => true
  | .msg _ _ | .cmd | .status => false

/-- `decode_off(off)` (R52); `none` is RESERVED. -/
def decodeOff (off : BitVec 9) : Option Reg :=
  if off < 0x100 then some (.msg (off.extractLsb' 6 2).toFin (off.extractLsb' 2 4).toFin)
  else if off < 0x180 then
    if h : (off.extractLsb' 2 3).toNat < 5 then
      some (.dig (off.extractLsb' 5 2).toFin ⟨(off.extractLsb' 2 3).toNat, h⟩)
    else none
  else if off < 0x190 then some (.seed (off.extractLsb' 2 2).toFin)
  else if off = 0x190 then some .lcgLo
  else if off = 0x194 then some .lcgHi
  else if off = 0x1C0 then some .cmd
  else if off = 0x1C4 then some .status
  else none

/-- The register a legal access reaches: 4 bytes, at an aligned offset that is not reserved (R55, R53). `none` is a bus
access error (R182). -/
def accessTarget (off : BitVec 9) (n : Nat) : Option Reg :=
  if n = 4 ∧ off.extractLsb' 0 2 = 0 then decodeOff off else none

/-- The value of a register: what an idle read returns (R160). `CMD` reads 0 (R25). -/
def State.readReg (s : State) : Reg → Word
  | .msg l i => s.msg[l][i]
  | .dig l j => s.dig[l][j]
  | .seed l => s.seed[l]
  | .lcgLo => s.lcgLo
  | .lcgHi => s.lcgHi
  | .cmd => 0
  | .status => s.statusWord

/-- `r <- v` for a data register (R161). `CMD` and `STATUS` hold no word of their own, so nothing is written there. -/
def State.writeReg (s : State) (r : Reg) (v : Word) : State :=
  match r with
  | .msg l i => { s with msg := s.msg.set l.val (s.msg[l].set i.val v) }
  | .dig l j => { s with dig := s.dig.set l.val (s.dig[l].set j.val v) }
  | .seed l => { s with seed := s.seed.set l.val v }
  | .lcgLo => { s with lcgLo := v }
  | .lcgHi => { s with lcgHi := v }
  | .cmd | .status => s

/-- The byte that byte offset `off` of the window carries (R57), `none` where the offset is reserved. -/
def State.windowByte (s : State) (off : BitVec 9) : Option Byte :=
  (decodeOff (off.extractLsb' 2 7 ++ (0 : BitVec 2))).map fun r =>
    busByte (s.readReg r) (off.extractLsb' 0 2).toNat

/-- The window offset of an offset given as a number, `none` outside the window (R50, R54). -/
def windowOffset (off : Nat) : Option (BitVec 9) :=
  if off < 0x200 then some (BitVec.ofNat 9 off) else none

/-- `off = address - BASE` for a byte address of the host's address space, `none` outside `BASE .. BASE + 0x1FF` (R50,
R54). -/
def addressOffset (base addr : Nat) : Option (BitVec 9) :=
  if base ≤ addr then windowOffset (addr - base) else none

end Sys2Proof.Machine
end

