-- ==== Sys2Proof/Machine/Access.lean ====
section
/-!
DEFINITION. The host's accesses: `MemRead` and `MemWrite` (spec/42_host_access.md R160, R161), the lines of a host
program and its pseudo lines (R163 to R166), and the machine's step when it is the host's turn: its next access, or a
cycle without one.
-/

namespace Sys2Proof.Machine

/-- `MemRead(off, n)` (R160): the word returned and the state after. -/
def memRead (off : BitVec 9) (n : Nat) (s : State) : Word × State :=
  match accessTarget off n with
  | none => (0, s.raiseError .badAccess)
  | some r =>
    if s.busy && r.drawnWhenBusy then (Config.busyRead s.draws, s.bumpDraws) else (s.readReg r, s)

/-- A legal write of `c` to `CMD` while idle (R33, R181): an illegal word starts nothing. -/
def writeCmd (c : Word) (s : State) : State :=
  match decode c with
  | .command i => s.accept i
  | .illegal _ => s.raiseError .illegalCmd

/-- `MemWrite(off, n, v)` (R161). The order of the tests is the error priority of R184. -/
def memWrite (off : BitVec 9) (n : Nat) (v : Word) (s : State) : State :=
  match accessTarget off n with
  | none => s.raiseError .badAccess
  | some .status => s.writeStatus v
  | some r =>
    if s.busy then s.raiseError .busyWrite
    else if r = .cmd then writeCmd v s
    else s.writeReg r v

/-- A host write at an offset that may lie outside the window (R54). -/
def hostWrite (off? : Option (BitVec 9)) (at_ n : Nat) (v : Word) (s : State) : Host.Outcome State Fault Refusal :=
  match off? with
  | none => .refused (.outsideWindow at_)
  | some off => .next (memWrite off n v s)

/-- A host read at an offset that may lie outside the window (R54), and what the host does with the word read. -/
def hostRead (off? : Option (BitVec 9)) (at_ n : Nat) (use : Word → State → State) (s : State) :
    Host.Outcome State Fault Refusal :=
  match off? with
  | none => .refused (.outsideWindow at_)
  | some off => .next (use (memRead off n s).1 (memRead off n s).2)

/-- One repetition of `poll OFF, MASK, VAL` that has read `t` (R165): the line is done if `(t & MASK) == VAL`, and stands
before the rest of the program again if not. Reset can come between two repetitions (R201), since it is no line. -/
def pollAgain (off : Nat) (mask val t : Word) (s : State) : State :=
  if t &&& mask = val then s else s.pushInput (.line (.poll off mask val))

/-- One host line (R163, R165), already taken off the program. -/
def performLine (h : HostLine) (s : State) : Host.Outcome State Fault Refusal :=
  match h with
  | .wr off v => hostWrite (windowOffset off) off 4 v s
  | .rd off dst => hostRead (windowOffset off) off 4 (fun t s' => s'.setVal dst t) s
  | .poll off mask val => hostRead (windowOffset off) off 4 (pollAgain off mask val) s

/-- One event of the host (R18), already taken off the list. -/
def performEvent (e : Event) (s : State) : Host.Outcome State Fault Refusal :=
  match e with
  | .line h => performLine h s
  | .read addr n dst => hostRead (addressOffset Config.base addr) addr n (fun t s' => s'.setVal dst t) s
  | .write addr n v => hostWrite (addressOffset Config.base addr) addr n v s

/-- The machine's step when it is the host's turn: its next event; with none, a cycle passes (R62, R208; log entry
14). -/
def advance (s : State) : Host.Outcome State Fault Refusal :=
  match s.inputs with
  | [] => .next s.tick
  | e :: rest => performEvent e (s.takeEvent rest)

/-- `cmd MNEMONIC` (R164). -/
def HostLine.cmd (i : Instr) : HostLine := .wr 0x1C0 (encode i)

/-- `wait` (R165). -/
def HostLine.wait : HostLine := .poll 0x1C4 0x1 0x0

/-- `clr` (R166). -/
def HostLine.clr : HostLine := .wr 0x1C4 0x2

/-- `wr` of a register by its name (R162). -/
def HostLine.wrReg (r : Reg) (v : Word) : HostLine := .wr r.offset v

/-- `rd` of a register by its name (R162). -/
def HostLine.rdReg (r : Reg) (dst : Nat) : HostLine := .rd r.offset dst

end Sys2Proof.Machine
end

