-- ==== Sys2Proof/Machine/Digest.lean ====
section
/-!
DEFINITION. The one-block compression (spec/40_compression.md R100 to R108) and the commands `DIGEST l` (R110) and
`DIGEST4` (R111). The constants are those the spec gives (log entry 15).
-/

namespace Sys2Proof.Machine

/-- The five chaining variables (R106, R17). -/
structure Chain where
  a : Word
  b : Word
  c : Word
  d : Word
  e : Word
deriving DecidableEq, Repr

/-- The initial chaining value `IV0..IV4` (R103). -/
def ivChain : Chain := ⟨0x67452301, 0xEFCDAB89, 0x98BADCFE, 0x10325476, 0xC3D2E1F0⟩

/-- The stage of round `t` (R102). -/
def stageOf (t : Nat) : Nat := t / 20

/-- The round constant `K_s` of a stage (R104). -/
def roundConst (stage : Nat) : Word :=
  match stage with
  | 0 => 0x5A827999
  | 1 => 0x6ED9EBA1
  | 2 => 0x8F1BBCDC
  | _ => 0xCA62C1D6

/-- Ch, the function of stage 0 (R101). -/
def chFun (b c d : Word) : Word := (b &&& c) ||| (~~~b &&& d)

/-- Parity, the function of stages 1 and 3 (R101). -/
def parityFun (b c d : Word) : Word := b ^^^ c ^^^ d

/-- Maj, the function of stage 2 (R101). -/
def majFun (b c d : Word) : Word := (b &&& c) ||| (b &&& d) ||| (c &&& d)

/-- `f(t, b, c, d)` (R101), by the stage of the round. -/
def roundFun (stage : Nat) (b c d : Word) : Word :=
  match stage with
  | 0 => chFun b c d
  | 1 => parityFun b c d
  | 2 => majFun b c d
  | _ => parityFun b c d

/-- The next schedule word (R105), from the words so far, the newest first: taps 3, 8, 14 and 16 back. -/
def nextWord (newestFirst : List Word) : Word :=
  rotl32 (newestFirst.getD 2 0 ^^^ newestFirst.getD 7 0 ^^^ newestFirst.getD 13 0 ^^^ newestFirst.getD 15 0) 1

/-- `n` more schedule words put before those so far, the newest first (R105). -/
def expand : Nat → List Word → List Word
  | 0, ws => ws
  | n + 1, ws => expand n (nextWord ws :: ws)

/-- The message schedule `W[0..79]` (R105). -/
def schedule (blk : Block) : List Word := (expand 64 blk.toList.reverse).reverse

/-- Round `t` with schedule word `w` (R106); every right side is the value before the round. -/
def roundStep (t : Nat) (w : Word) (x : Chain) : Chain where
  a := rotl32 x.a 5 + roundFun (stageOf t) x.b x.c x.d + x.e + roundConst (stageOf t) + w
  b := x.a
  c := rotl32 x.b 30
  d := x.c
  e := x.d

/-- The rounds from round `t` on, one per schedule word (R108). -/
def runRounds : Nat → List Word → Chain → Chain
  | _, [], x => x
  | t, w :: ws, x => runRounds (t + 1) ws (roundStep t w x)

/-- The addition of the initial chaining value (R107). -/
def feedForward (x : Chain) : Digest :=
  #v[ivChain.a + x.a, ivChain.b + x.b, ivChain.c + x.c, ivChain.d + x.d, ivChain.e + x.e]

/-- `compress(B)` (R100, R108). -/
def compress (blk : Block) : Digest := feedForward (runRounds 0 (schedule blk) ivChain)

/-- `DIGEST l` at its completion step (R110, R34). -/
def execDigest (l : Lane) (s : State) : Host.Outcome State Fault Refusal :=
  .next (s.setDig l (compress s.msg[l])).complete

/-- `DIGEST4` at its completion step, all lanes in one update (R111, R34). -/
def execDigest4 (s : State) : Host.Outcome State Fault Refusal :=
  .next (s.setDigs (eachLane fun l => compress s.msg[l])).complete

end Sys2Proof.Machine
end

