-- ==== Sys2Proof/Machine/Lcg.lean ====
section
/-!
DEFINITION. The LCG step (spec/41_seed_lcg.md R130) and the command `LCG` (R144).
-/

namespace Sys2Proof.Machine

/-- One LCG step with multiplier `m` and increment `a`, modulo 2^64 (R130). -/
def lcgStepWith (m a x : DWord) : DWord := x * m + a

/-- `lcg_step(x)` with the block's own constants `LCG_M` and `LCG_A` (R130, R10). -/
def lcgStep (x : DWord) : DWord := lcgStepWith Config.lcgM Config.lcgA x

/-- `LCG` at its completion step (R144, R34). -/
def execLcg (s : State) : Host.Outcome State Fault Refusal :=
  .next (s.setLcg (lcgStep s.lcg)).complete

end Sys2Proof.Machine
end

