-- ==== Sys2Proof/Machine/Seed.lean ====
section
/-!
DEFINITION. Seed derivation (spec/41_seed_lcg.md R131, R132) and the commands `SEED l` (R140), `SEED4` (R141),
`DSEED l` (R142) and `DSEED4` (R143).
-/

namespace Sys2Proof.Machine

/-- The 64-bit value of two digest words: both byte-swapped, `h1` in the upper half (R131, R132). -/
def seedInput (h0 h1 : Word) : DWord := bswap32 h1 ++ bswap32 h0

/-- Seed derivation with multiplier `m` and increment `a` (R132). -/
def seedFromDigestWith (m a : DWord) (h0 h1 : Word) : Word :=
  (lcgStepWith m a (seedInput h0 h1)).extractLsb' 32 32

/-- `seed_from_digest(h0, h1)` with the block's own constants (R132, R10). -/
def seedFromDigest (h0 h1 : Word) : Word := seedFromDigestWith Config.lcgM Config.lcgA h0 h1

/-- The seed of a digest: `seed_from_digest` of its words 0 and 1 (R140, R142). -/
def seedOf (d : Digest) : Word := seedFromDigest d[0] d[1]

/-- `SEED l` at its completion step (R140, R34). -/
def execSeed (l : Lane) (s : State) : Host.Outcome State Fault Refusal :=
  .next (s.setSeed l (seedOf s.dig[l])).complete

/-- `SEED4` at its completion step, all lanes in one update (R141, R34). -/
def execSeed4 (s : State) : Host.Outcome State Fault Refusal :=
  .next (s.setSeeds (eachLane fun l => seedOf s.dig[l])).complete

/-- `DSEED l` at its completion step: the seed is of the new digest (R142, R34). -/
def execDseed (l : Lane) (s : State) : Host.Outcome State Fault Refusal :=
  .next ((s.setDig l (compress s.msg[l])).setSeed l (seedOf (compress s.msg[l]))).complete

/-- `DSEED4` at its completion step, all lanes in one update (R143, R34). -/
def execDseed4 (s : State) : Host.Outcome State Fault Refusal :=
  .next ((s.setDigs (eachLane fun l => compress s.msg[l])).setSeeds
    (eachLane fun l => seedOf (compress s.msg[l]))).complete

end Sys2Proof.Machine
end

