-- ==== Sys2Proof/Machine/Dispatch.lean ====
section
/-!
DEFINITION. `exec`: the effect of each command at its completion step (spec/10_state.md R34).
-/

namespace Sys2Proof.Machine

def exec (i : Instr) (s : State) : Host.Outcome State Fault Refusal :=
  match i with
  -- Compression (spec/40_compression.md)
  | .digest l => Sys2Proof.Machine.execDigest l s
  | .digest4 => Sys2Proof.Machine.execDigest4 s
  -- Seed derivation and LCG (spec/41_seed_lcg.md)
  | .seed l => Sys2Proof.Machine.execSeed l s
  | .seed4 => Sys2Proof.Machine.execSeed4 s
  | .dseed l => Sys2Proof.Machine.execDseed l s
  | .dseed4 => Sys2Proof.Machine.execDseed4 s
  | .lcg => Sys2Proof.Machine.execLcg s

end Sys2Proof.Machine
end

