-- ==== Sys2Proof/Machine/Step.lean ====
section
/-!
DEFINITION. One step of the machine (spec/00_scope.md R18, R19): reset where it is asserted, else the unit's completion
step where one is due, else the host's next access.
-/

namespace Sys2Proof.Machine

/-- One step. Which agent moves is plain data (`State.turn`): reset may be asserted between any two steps (R201), the
pending command completes once its delay has run out (R34, R208), and until then, or with nothing pending, the host moves
(R62). -/
def step (s : State) : Host.Outcome State Fault Refusal :=
  match s.turn with
  | .reset => .next s.resetUnit
  | .unit i => exec i s.passStep
  | .host => advance s.passStep

/-- `s` with the command of word `w` placed where `step` takes its next command: accepted, with no delay left (log entry
7). -/
def State.withFetchWord (s : State) (nbits w : Nat) : State := s.placeCommand nbits w

end Sys2Proof.Machine
end

