-- ==== Sys2Proof/Machine/HostBlock.lean ====
section
/-!
DEFINITION. The message block a host that follows the source writes (spec/42_host_access.md R170 to R177), and the SHA-1
digest of a one-block message it stands for (spec/40_compression.md R109). These are the host's duties; the unit checks
none of it (spec/40_compression.md R113), and no rule of the unit uses this file. What the source does not give is an
opaque constant or function of Config (log entry 18).
-/

namespace Sys2Proof.Machine

/-- What is fixed for a host session (R170: words 0 to 4, 6, 7 and 10 to 12). -/
structure HostSession where
  nonce : Vector Word 5
  hardwareId : Vector Byte 6
  frameCounter : Word
  keyInput : Word
  /-- The values of the other two of words 10 to 12, in order: fixed per session and not in the source (R175). -/
  otherWords : Word × Word
deriving DecidableEq, Repr

/-- What changes with each candidate (R170: words 5, 8 and 9). -/
structure HostCandidate where
  vcount : Word
  timer0 : Word
  dateCode : Word
  timeCode : Word
deriving DecidableEq, Repr

/-- The hardware profiles the time code depends on (R174). -/
inductive HostProfile where
  | variantA
  | variantB
  | variantC
deriving DecidableEq, Repr

/-- The time code as the hardware has it (R174, X8): for VariantA and VariantB it differs from the plain code by exactly
bit 0x40000000 from second 43200 of the day on. -/
def timeCodeForHardware (p : HostProfile) (seconds : Nat) (plain : Word) : Word :=
  match p with
  | .variantA | .variantB => if 12 ≤ seconds / 3600 then plain ^^^ 0x40000000 else plain
  | .variantC => plain

/-- Word 5 before normalisation (R172). -/
def timingWord (vcount timer0 : Word) : Word := (vcount <<< 16) ||| timer0

/-- What the hardware identity contributes to message word `6 + w`: each of its bytes at its place (R173), the places an
argument. -/
def placedIdentityWith (place : Fin 6 → Fin 2 × Fin 4) (hardwareId : Vector Byte 6) (w : Fin 2) : Word :=
  (List.finRange 6).foldl
    (fun acc b => if (place b).1 = w then acc ^^^ (hardwareId[b].setWidth 32 <<< (8 * (place b).2.val)) else acc) 0

/-- Message word `6 + w`: the hardware identity XORed with a fixed constant and, in one of the two words, with the frame
counter (R173). -/
def hardwareWord (h : HostSession) (w : Fin 2) : Word :=
  placedIdentityWith Config.hardwarePlace h.hardwareId w ^^^ Config.hardwareConst w ^^^
    (if Config.frameWord = w then h.frameCounter else 0)

/-- Message words 10 to 12: the key input at its place, the session's other two words around it (R175). -/
def keyWordsAt (place : Fin 3) (key : Word) (others : Word × Word) : Word × Word × Word :=
  match place with
  | 0 => (key, others.1, others.2)
  | 1 => (others.1, key, others.2)
  | 2 => (others.1, others.2, key)

/-- The block of R170 with the open parts as arguments: `norm` (R171), words 6 and 7 (R173), words 10 to 12 (R175).
Words 13 to 15 are the padding of R176. -/
def messageBlockWith (norm : Word → Word) (hw : Word × Word) (key : Word × Word × Word) (nonce : Vector Word 5)
    (c : HostCandidate) : Block :=
  #v[norm nonce[0], norm nonce[1], norm nonce[2], norm nonce[3], norm nonce[4],
    norm (timingWord c.vcount c.timer0), hw.1, hw.2, c.dateCode, c.timeCode, key.1, key.2.1, key.2.2,
    0x80000000, 0, 0x1A0]

/-- The block a host writes for one candidate of a session (R170 to R176). -/
def messageBlock (h : HostSession) (c : HostCandidate) : Block :=
  messageBlockWith Config.norm (hardwareWord h 0, hardwareWord h 1)
    (keyWordsAt Config.keyPlace h.keyInput h.otherWords) h.nonce c

/-- The 16 lines that write a block into the message registers of a lane (R162, R163). -/
def writeBlockLines (l : Lane) (blk : Block) : List HostLine :=
  (List.finRange 16).map fun i => .wrReg (.msg l i) blk[i]

/-- The 3 lines that write what changes between two candidates (R177). -/
def writeCandidateLines (l : Lane) (blk : Block) : List HostLine :=
  [.wrReg (.msg l 5) blk[5], .wrReg (.msg l 8) blk[8], .wrReg (.msg l 9) blk[9]]

/-- The four bytes of a word, the most significant first (R109). -/
def bytesMsbFirst (w : Word) : List Byte := [busByte w 3, busByte w 2, busByte w 1, busByte w 0]

/-- The words of a byte string, each word's most significant byte first (R109). -/
def wordsMsbFirst : List Byte → List Word
  | b3 :: b2 :: b1 :: b0 :: rest => wordOfBusBytes b0 b1 b2 b3 :: wordsMsbFirst rest
  | _ => []

/-- The SHA-1 padding of a message of at most 55 bytes to one block of 64: a byte 0x80, zeros, and the length in bits as
a 64-bit number, the most significant byte first (log entry 24). -/
def padOneBlock (m : List Byte) : List Byte :=
  m ++ 0x80 :: List.replicate (55 - m.length) 0 ++ bytesMsbFirst 0 ++ bytesMsbFirst (BitVec.ofNat 32 (8 * m.length))

/-- The block whose words are the first 16 of a list. -/
def blockOfWords (ws : List Word) : Block := Vector.ofFn fun i => ws.getD i.val 0

/-- The SHA-1 digest of a message of at most 55 bytes: its one padded block, compressed (R109). -/
def sha1OneBlock (m : List Byte) : Digest := compress (blockOfWords (wordsMsbFirst (padOneBlock m)))

end Sys2Proof.Machine
end

