-- ==== Sys2Proof/Safety.lean ====
section
/-!
DEFINITION. The terms claims are stated in: the machine's invariant, which registers a command reads and writes
(spec/10_state.md R36), when two states agree on the unit, which events are ordinary, the error-free run
(spec/60_exceptions.md R189) and the end of a host program's run (spec/42_host_access.md R168).
-/

namespace Sys2Proof.Machine

/-- The invariant of the machine: `BUSY` is 1 exactly when a command is pending (R31), `STATUS` holds a legal value
(R26), no delay is left over when nothing is pending, and the host values are in canonical form. -/
abbrev State.Inv (s : State) : Prop :=
  s.busy = s.pending.isSome ∧ s.statusLegal = true ∧ (s.pending = none → s.delay = 0) ∧ s.vals.wf = true

/-- Nothing is pending and the unit is not busy (R196). -/
abbrev State.Idle (s : State) : Prop := s.pending = none ∧ s.busy = false

/-- No error is recorded: what a host program that ran without error leaves (R189). -/
abbrev State.ErrorFree (s : State) : Prop := s.err = false

/-- Two states hold the same data registers (R21 to R24). -/
abbrev State.SameData (s t : State) : Prop :=
  s.msg = t.msg ∧ s.dig = t.dig ∧ s.seed = t.seed ∧ s.lcgLo = t.lcgLo ∧ s.lcgHi = t.lcgHi

/-- Two states hold the same architectural state of the unit (R41). -/
abbrev State.SameUnit (s t : State) : Prop :=
  s.SameData t ∧ s.busy = t.busy ∧ s.err = t.err ∧ s.ecode = t.ecode ∧ s.pending = t.pending

/-- Two states agree on everything of lane `l` (R37). -/
abbrev State.SameLane (l : Lane) (s t : State) : Prop :=
  s.msg[l] = t.msg[l] ∧ s.dig[l] = t.dig[l] ∧ s.seed[l] = t.seed[l]

/-- What every completed command leaves behind besides its results (R34, R36): idle, and the error fields, the host's
side and the model's counters as they were. -/
abbrev State.Completed (s t : State) : Prop :=
  t.pending = none ∧ t.busy = false ∧ t.err = s.err ∧ t.ecode = s.ecode ∧ t.inputs = s.inputs ∧
    t.resets = s.resets ∧ t.vals = s.vals ∧ t.cmdLast = s.cmdLast ∧ t.delay = s.delay ∧ t.draws = s.draws

/-- A bus access error (R182): a size other than 4, a misaligned offset, or a reserved offset of the register map
(R51). -/
abbrev BadAccess (off : BitVec 9) (n : Nat) : Prop :=
  n ≠ 4 ∨ off.toNat % 4 ≠ 0 ∨ (0x100 ≤ off.toNat ∧ off.toNat < 0x180 ∧ 0x14 ≤ off.toNat % 0x20) ∨
    (0x198 ≤ off.toNat ∧ off.toNat < 0x1C0) ∨ 0x1C8 ≤ off.toNat

/-- The state after `raise Error(code)` with the given code number (R183), every other field as it was. -/
abbrev State.withError (s : State) (code : BitVec 4) : State :=
  { s with err := true, ecode := if s.err then s.ecode else code }

end Sys2Proof.Machine

namespace Sys2Proof

open Machine (Reg)

/-- The registers a command reads (R36, column reads). -/
def Instr.reads : Instr → Reg → Bool
  | .digest l, .msg k _ => k == l
  | .digest4, .msg _ _ => true
  | .seed l, .dig k j => k == l && (j == 0 || j == 1)
  | .seed4, .dig _ j => j == 0 || j == 1
  | .dseed l, .msg k _ => k == l
  | .dseed4, .msg _ _ => true
  | .lcg, .lcgLo => true
  | .lcg, .lcgHi => true
  | _, _ => false

/-- The registers a command writes (R36, column writes). -/
def Instr.writes : Instr → Reg → Bool
  | .digest l, .dig k _ => k == l
  | .digest4, .dig _ _ => true
  | .seed l, .seed k => k == l
  | .seed4, .seed _ => true
  | .dseed l, .dig k _ => k == l
  | .dseed l, .seed k => k == l
  | .dseed4, .dig _ _ => true
  | .dseed4, .seed _ => true
  | .lcg, .lcgLo => true
  | .lcg, .lcgHi => true
  | _, _ => false

end Sys2Proof

namespace Sys2Proof.Machine

/-- An event that does not leave the window (R54). -/
def Event.ordinary : Event → Bool
  | .line h => h.WellFormed
  | .read addr _ _ => (addressOffset Config.base addr).isSome
  | .write addr _ _ => (addressOffset Config.base addr).isSome

/-- A command accepted and then completed, with whatever else is between left out (R33, R34; used by R112, R145 to
R147). -/
def runCommand (i : Instr) (s : State) : Host.Outcome State Fault Refusal := exec i (s.accept i)

/-- The next state, if the outcome is one. -/
def nextOf : Host.Outcome State Fault Refusal → Option State
  | .next s => some s
  | .fault _ => none
  | .refused _ => none

/-- Commands accepted and completed one after another. -/
def runCommands : List Instr → State → Option State
  | [], s => some s
  | i :: is, s => (nextOf (runCommand i s)).bind (runCommands is)

/-- The run of the host program has ended (R168): its last line has been performed and, if that line was an accepted
command, that command is no longer pending. A reset that abandons it ends the run too (log entry 26). -/
abbrev State.RunEnded (s : State) : Prop := s.inputs = [] ∧ (s.cmdLast = true → s.pending = none)

/-- The step from `s` to `t` ends the run of the host program (R168). -/
abbrev EndsRun (s t : State) : Prop := step s = .next t ∧ ¬s.RunEnded ∧ t.RunEnded

end Sys2Proof.Machine
end

