-- ==== Sys2Proof/Certificates/Slice0/Obligations.lean ====
section
/-!
DEFINITION. The statements about the model, each a proposition named by what it states. A docstring names the rule of
spec/ the statement formalises, or says that it is the model's own.
-/

open Sys2Proof Sys2Proof.Machine

/-! ### Encoding -/

/-- R77: the 16 legal command words and the command of each. -/
def Obligations.SixteenWordsDecode : Prop :=
  decode 0x00000001 = .command (.digest 0) ∧ decode 0x00000011 = .command (.digest 1) ∧
  decode 0x00000021 = .command (.digest 2) ∧ decode 0x00000031 = .command (.digest 3) ∧
  decode 0x00000002 = .command .digest4 ∧
  decode 0x00000003 = .command (.seed 0) ∧ decode 0x00000013 = .command (.seed 1) ∧
  decode 0x00000023 = .command (.seed 2) ∧ decode 0x00000033 = .command (.seed 3) ∧
  decode 0x00000004 = .command .seed4 ∧
  decode 0x00000005 = .command (.dseed 0) ∧ decode 0x00000015 = .command (.dseed 1) ∧
  decode 0x00000025 = .command (.dseed 2) ∧ decode 0x00000035 = .command (.dseed 3) ∧
  decode 0x00000006 = .command .dseed4 ∧ decode 0x00000007 = .command .lcg

/-- R74, R77: the decoder reads a command from exactly the word that encodes it, for every command and every one of the
2^32 words. -/
def Obligations.DecodeInvertsEncode : Prop :=
  ∀ (c : Word) (i : Instr), decode c = .command i ↔ c = encode i

/-- R75: the illegal words, and what a write of one to `CMD` does while idle. -/
def Obligations.IllegalWordsAndTheirWrite : Prop :=
  (∀ c : Word, (∃ why, decode c = .illegal why) ↔
    (c.toNat / 64 ≠ 0 ∨ c.toNat % 16 = 0 ∨ 8 ≤ c.toNat % 16 ∨
      ((c.toNat % 16 = 2 ∨ c.toNat % 16 = 4 ∨ c.toNat % 16 = 6 ∨ c.toNat % 16 = 7) ∧ c.toNat / 16 % 4 ≠ 0))) ∧
  (∀ (c : Word) (why : Illegal) (s : State), decode c = .illegal why → s.busy = false →
    memWrite 0x1C0 4 c s = s.withError 1)

/-- R76: exactly 16 words are legal commands. -/
def Obligations.ExactlySixteenLegalWords : Prop :=
  ∃ ws : List Word, ws.length = 16 ∧ ws.Nodup ∧ ∀ c : Word, (∃ i, decode c = .command i) ↔ c ∈ ws

/-! ### The register window -/

/-- R51, R52: the offset decode gives each register of the map at its offset, and nothing at the reserved offsets. -/
def Obligations.OffsetDecodeIsTheRegisterMap : Prop :=
  (∀ (l : Lane) (i : Fin 16), decodeOff (BitVec.ofNat 9 (0x40 * l.val + 4 * i.val)) = some (.msg l i)) ∧
  (∀ (l : Lane) (j : Fin 5), decodeOff (BitVec.ofNat 9 (0x100 + 0x20 * l.val + 4 * j.val)) = some (.dig l j)) ∧
  (∀ l : Lane, decodeOff (BitVec.ofNat 9 (0x180 + 4 * l.val)) = some (.seed l)) ∧
  decodeOff 0x190 = some .lcgLo ∧ decodeOff 0x194 = some .lcgHi ∧
  decodeOff 0x1C0 = some .cmd ∧ decodeOff 0x1C4 = some .status ∧
  (∀ off : BitVec 9, off.toNat % 4 = 0 → (decodeOff off = none ↔ BadAccess off 4))

/-- R57: byte `k` of a register's word is carried at byte offset `off + k`. -/
def Obligations.ByteLanesAreLittleEndian : Prop :=
  ∀ (s : State) (r : Reg) (k : Fin 4), ∃ b : Byte,
    s.windowByte (BitVec.ofNat 9 (r.offset + k.val)) = some b ∧
      ∀ m : Fin 8, b.getLsbD m.val = (s.readReg r).getLsbD (8 * k.val + m.val)

/-! ### Functions -/

/-- R105: the message schedule. -/
def Obligations.ScheduleExpandsBlock : Prop :=
  ∀ B : Block, (schedule B).length = 80 ∧
    (∀ t : Fin 16, (schedule B)[t.val]? = some B[t]) ∧
    (∀ t, 16 ≤ t → t < 80 → ∃ w3 w8 w14 w16 : Word,
      (schedule B)[t - 3]? = some w3 ∧ (schedule B)[t - 8]? = some w8 ∧
      (schedule B)[t - 14]? = some w14 ∧ (schedule B)[t - 16]? = some w16 ∧
      (schedule B)[t]? = some (((w3 ^^^ w8 ^^^ w14 ^^^ w16) <<< 1) ||| ((w3 ^^^ w8 ^^^ w14 ^^^ w16) >>> 31)))

/-- R101 to R108: `compress` is the function the rules write out, round by round. -/
def Obligations.CompressFollowsTheRounds : Prop :=
  ∀ B : Block, ∃ W a b c d e : Nat → Word,
    (∀ t : Fin 16, W t.val = B[t]) ∧
    (∀ t, 16 ≤ t → t < 80 →
      W t = ((W (t - 3) ^^^ W (t - 8) ^^^ W (t - 14) ^^^ W (t - 16)) <<< 1) |||
        ((W (t - 3) ^^^ W (t - 8) ^^^ W (t - 14) ^^^ W (t - 16)) >>> 31)) ∧
    a 0 = 0x67452301 ∧ b 0 = 0xEFCDAB89 ∧ c 0 = 0x98BADCFE ∧ d 0 = 0x10325476 ∧ e 0 = 0xC3D2E1F0 ∧
    (∀ t, t < 80 →
      a (t + 1) = ((a t <<< 5) ||| (a t >>> 27)) +
        (if t < 20 then (b t &&& c t) ||| (~~~(b t) &&& d t)
          else if t < 40 then b t ^^^ c t ^^^ d t
          else if t < 60 then (b t &&& c t) ||| (b t &&& d t) ||| (c t &&& d t)
          else b t ^^^ c t ^^^ d t) + e t +
        (if t < 20 then 0x5A827999 else if t < 40 then 0x6ED9EBA1 else if t < 60 then 0x8F1BBCDC else 0xCA62C1D6) +
        W t ∧
      b (t + 1) = a t ∧ c (t + 1) = ((b t <<< 30) ||| (b t >>> 2)) ∧ d (t + 1) = c t ∧ e (t + 1) = d t) ∧
    compress B = #v[0x67452301 + a 80, 0xEFCDAB89 + b 80, 0x98BADCFE + c 80, 0x10325476 + d 80, 0xC3D2E1F0 + e 80]

/-- R13: `bswap32` reverses the four bytes, by the rule's own formula. -/
def Obligations.ByteSwapReversesBytes : Prop :=
  ∀ x : Word,
    bswap32 x = ((x &&& 0xFF) <<< 24) ||| (((x >>> 8) &&& 0xFF) <<< 16) ||| (((x >>> 16) &&& 0xFF) <<< 8) |||
      (x >>> 24) ∧
    ∀ k : Fin 4, busByte (bswap32 x) k.val = busByte x (3 - k.val)

/-- R130: the LCG step is the full product and sum, reduced modulo 2^64. -/
def Obligations.LcgStepIsModular : Prop :=
  ∀ x : DWord, (lcgStep x).toNat = (x.toNat * Config.lcgM.toNat + Config.lcgA.toNat) % 2 ^ 64

/-- R132: the seed is the upper half of one LCG step of the swapped words, `h1` in the upper half. -/
def Obligations.SeedIsUpperHalfOfStep : Prop :=
  ∀ h0 h1 : Word,
    (seedFromDigest h0 h1).toNat =
      (((bswap32 h1).toNat * 2 ^ 32 + (bswap32 h0).toNat) * Config.lcgM.toNat + Config.lcgA.toNat) % 2 ^ 64 / 2 ^ 32

/-- R133: the corner cases of seed derivation, with the block's own constants and with the reference ones. -/
def Obligations.SeedCornerCases : Prop :=
  seedFromDigest 0 0 = Config.lcgA.extractLsb' 32 32 ∧
  seedFromDigest 0xFFFFFFFF 0xFFFFFFFF = (Config.lcgA - Config.lcgM).extractLsb' 32 32 ∧
  (∀ m a : DWord, a.toNat < 2 ^ 32 → seedFromDigestWith m a 0 0 = 0) ∧
  seedFromDigestWith 0x5D588B656C078965 0x269EC3 0 0 = 0

/-- R144, corner cases of the `LCG` command's step, for every multiplier and increment. -/
def Obligations.LcgStepCornerCases : Prop :=
  ∀ m a : DWord,
    lcgStepWith m a 0 = a ∧ lcgStepWith m a 0xFFFFFFFFFFFFFFFF = a - m ∧
      (m.getLsbD 0 = true → lcgStepWith m a 0x8000000000000000 = 0x8000000000000000 + a)

/-! ### Commands: result, frame and completion -/

/-- R110: `DIGEST l` completes from every state with the digest of lane `l` in `DIG[l]`, and changes nothing else. -/
def Obligations.DigestResultAndFrame : Prop :=
  ∀ (l : Lane) (s : State), ∃ t, exec (.digest l) s = .next t ∧
    t.dig[l] = compress s.msg[l] ∧ (∀ k : Lane, k ≠ l → t.dig[k] = s.dig[k]) ∧
    t.msg = s.msg ∧ t.seed = s.seed ∧ t.lcgLo = s.lcgLo ∧ t.lcgHi = s.lcgHi ∧ s.Completed t

/-- R111: `DIGEST4` completes from every state with each lane's digest in its `DIG`, and changes nothing else. -/
def Obligations.Digest4ResultAndFrame : Prop :=
  ∀ s : State, ∃ t, exec .digest4 s = .next t ∧
    (∀ k : Lane, t.dig[k] = compress s.msg[k]) ∧
    t.msg = s.msg ∧ t.seed = s.seed ∧ t.lcgLo = s.lcgLo ∧ t.lcgHi = s.lcgHi ∧ s.Completed t

/-- R140: `SEED l` completes from every state with the seed of `DIG[l][0..1]` in `SEED[l]`, and changes nothing else. -/
def Obligations.SeedResultAndFrame : Prop :=
  ∀ (l : Lane) (s : State), ∃ t, exec (.seed l) s = .next t ∧
    t.seed[l] = seedFromDigest s.dig[l][0] s.dig[l][1] ∧ (∀ k : Lane, k ≠ l → t.seed[k] = s.seed[k]) ∧
    t.msg = s.msg ∧ t.dig = s.dig ∧ t.lcgLo = s.lcgLo ∧ t.lcgHi = s.lcgHi ∧ s.Completed t

/-- R141: `SEED4` completes from every state with each lane's seed in its `SEED`, and changes nothing else. -/
def Obligations.Seed4ResultAndFrame : Prop :=
  ∀ s : State, ∃ t, exec .seed4 s = .next t ∧
    (∀ k : Lane, t.seed[k] = seedFromDigest s.dig[k][0] s.dig[k][1]) ∧
    t.msg = s.msg ∧ t.dig = s.dig ∧ t.lcgLo = s.lcgLo ∧ t.lcgHi = s.lcgHi ∧ s.Completed t

/-- R142: `DSEED l` completes from every state with the digest of lane `l` and the seed of that new digest, and changes
nothing else. -/
def Obligations.DseedResultAndFrame : Prop :=
  ∀ (l : Lane) (s : State), ∃ t, exec (.dseed l) s = .next t ∧
    t.dig[l] = compress s.msg[l] ∧ (∀ k : Lane, k ≠ l → t.dig[k] = s.dig[k]) ∧
    t.seed[l] = seedFromDigest (compress s.msg[l])[0] (compress s.msg[l])[1] ∧
    (∀ k : Lane, k ≠ l → t.seed[k] = s.seed[k]) ∧
    t.msg = s.msg ∧ t.lcgLo = s.lcgLo ∧ t.lcgHi = s.lcgHi ∧ s.Completed t

/-- R143: `DSEED4` completes from every state with each lane's digest and the seed of it, and changes nothing else. -/
def Obligations.Dseed4ResultAndFrame : Prop :=
  ∀ s : State, ∃ t, exec .dseed4 s = .next t ∧
    (∀ k : Lane, t.dig[k] = compress s.msg[k]) ∧
    (∀ k : Lane, t.seed[k] = seedFromDigest (compress s.msg[k])[0] (compress s.msg[k])[1]) ∧
    t.msg = s.msg ∧ t.lcgLo = s.lcgLo ∧ t.lcgHi = s.lcgHi ∧ s.Completed t

/-- R144: `LCG` completes from every state with one LCG step of the 64-bit register, and changes nothing else. -/
def Obligations.LcgResultAndFrame : Prop :=
  ∀ s : State, ∃ t, exec .lcg s = .next t ∧
    t.lcgHi ++ t.lcgLo = (s.lcgHi ++ s.lcgLo) * Config.lcgM + Config.lcgA ∧
    t.msg = s.msg ∧ t.dig = s.dig ∧ t.seed = s.seed ∧ s.Completed t

/-- R36: no command writes a register outside its row of the table, what it writes depends only on the registers its row
reads, and every command clears `BUSY`. -/
def Obligations.CommandsTouchOnlyTheirRegisters : Prop :=
  ∀ (i : Instr) (s : State), ∃ t, exec i s = .next t ∧ t.busy = false ∧
    (∀ r : Reg, r.isData = true → i.writes r = false → t.readReg r = s.readReg r) ∧
    (∀ s' : State, (∀ r : Reg, i.reads r = true → s'.readReg r = s.readReg r) →
      ∃ t', exec i s' = .next t' ∧ ∀ r : Reg, i.writes r = true → t'.readReg r = t.readReg r)

/-- R37: what a command leaves in a lane depends only on the registers of that lane. -/
def Obligations.LanesAreIndependent : Prop :=
  ∀ (i : Instr) (l : Lane) (s s' t t' : State), s.SameLane l s' → exec i s = .next t → exec i s' = .next t' →
    t.SameLane l t'

/-- R112: `DIGEST4` equals `DIGEST 0` to `DIGEST 3` in any order, each accepted and completed. -/
def Obligations.Digest4EqualsFourDigests : Prop :=
  ∀ (p : List Lane) (s : State), p.Perm [0, 1, 2, 3] → s.pending = none →
    ∃ t u, runCommands [.digest4] s = some t ∧ runCommands (p.map .digest) s = some u ∧ t.SameUnit u

/-- R145: `SEED4` equals `SEED 0` to `SEED 3` in any order, and `DSEED4` equals `DSEED 0` to `DSEED 3` in any order. -/
def Obligations.Seed4AndDseed4EqualFourScalars : Prop :=
  ∀ (p : List Lane) (s : State), p.Perm [0, 1, 2, 3] → s.pending = none →
    (∃ t u, runCommands [.seed4] s = some t ∧ runCommands (p.map .seed) s = some u ∧ t.SameUnit u) ∧
    (∃ t u, runCommands [.dseed4] s = some t ∧ runCommands (p.map .dseed) s = some u ∧ t.SameUnit u)

/-- R146: `DSEED l` equals `DIGEST l` then `SEED l`, and `DSEED4` equals `DIGEST4` then `SEED4`. -/
def Obligations.DseedEqualsDigestThenSeed : Prop :=
  ∀ s : State,
    (∀ l : Lane, ∃ t u, runCommands [.dseed l] s = some t ∧ runCommands [.digest l, .seed l] s = some u ∧
      t.SameUnit u) ∧
    (∃ t u, runCommands [.dseed4] s = some t ∧ runCommands [.digest4, .seed4] s = some u ∧ t.SameUnit u)

/-- R147: the seed of lane `l` is the upper half the `LCG` command leaves when run from the swapped digest words. -/
def Obligations.SeedEqualsLcgHigh : Prop :=
  ∀ (l : Lane) (s u : State), u.lcgHi = bswap32 s.dig[l][1] → u.lcgLo = bswap32 s.dig[l][0] →
    ∃ t v, exec (.seed l) s = .next t ∧ exec .lcg u = .next v ∧ t.seed[l] = v.lcgHi

/-- R114: the same message registers give the same digest registers, whatever else differs. -/
def Obligations.DigestsAreDeterministic : Prop :=
  (∀ (l : Lane) (s s' : State), s.msg[l] = s'.msg[l] →
    ∃ t t', exec (.digest l) s = .next t ∧ exec (.digest l) s' = .next t' ∧ t.dig[l] = t'.dig[l]) ∧
  (∀ s s' : State, s.msg = s'.msg →
    ∃ t t', exec .digest4 s = .next t ∧ exec .digest4 s' = .next t' ∧ t.dig = t'.dig)

/-- R185: every command completes from every state and raises no error. -/
def Obligations.CompletionRaisesNoError : Prop :=
  ∀ (i : Instr) (s : State), ∃ t, exec i s = .next t ∧ t.err = s.err ∧ t.ecode = s.ecode

/-! ### Host accesses -/

/-- R33: an accepted write to `CMD` makes the decoded command pending and the unit busy, and writes no data register. -/
def Obligations.AcceptedWriteStartsCommand : Prop :=
  ∀ (s : State) (c : Word) (i : Instr), decode c = .command i → s.busy = false →
    (memWrite 0x1C0 4 c s).pending = some i ∧ (memWrite 0x1C0 4 c s).busy = true ∧
      s.SameData (memWrite 0x1C0 4 c s)

/-- R28: a write to `STATUS` whose bit 1 is 1 clears the error, any other leaves it, busy or not; an erroneous write
clears nothing and records its error. -/
def Obligations.StatusWriteClearsError : Prop :=
  (∀ (s : State) (c : ErrorCode), (s.raiseError c).err = true) ∧
  (∀ (s : State) (v : Word),
    memWrite 0x1C4 4 v s = if v.getLsbD 1 then { s with err := false, ecode := 0 } else s) ∧
  (∀ (s : State) (v : Word) (off : BitVec 9) (n : Nat), 0x1C4 ≤ off.toNat → off.toNat < 0x1C8 →
    (n ≠ 4 ∨ off ≠ 0x1C4) → memWrite off n v s = s.withError 3)

/-- R183, R180: `raise Error(code)` records the code of the first error and changes nothing else. -/
def Obligations.FirstErrorIsKept : Prop :=
  (∀ (s : State) (c : ErrorCode), s.err = false → s.raiseError c = { s with err := true, ecode := c.code }) ∧
  (∀ (s : State) (c : ErrorCode), s.err = true → s.raiseError c = s) ∧
  ErrorCode.illegalCmd.code = 1 ∧ ErrorCode.busyWrite.code = 2 ∧ ErrorCode.badAccess.code = 3

/-- R181: a legal write while busy changes nothing and raises error 2; an illegal word written to `CMD` while idle
changes nothing and raises error 1. -/
def Obligations.WriteErrors : Prop :=
  (∀ (s : State) (r : Reg) (v : Word), r ≠ .status → s.busy = true →
    memWrite (BitVec.ofNat 9 r.offset) 4 v s = s.withError 2) ∧
  (∀ (s : State) (c : Word) (why : Illegal), s.busy = false → decode c = .illegal why →
    memWrite 0x1C0 4 c s = s.withError 1 ∧ (memWrite 0x1C0 4 c s).busy = false)

/-- R182: a bad access raises error 3 and changes nothing else, pending command included, and a read returns 0. -/
def Obligations.BadAccessesRaiseErrorThree : Prop :=
  ∀ (s : State) (off : BitVec 9) (n : Nat) (v : Word), BadAccess off n →
    memWrite off n v s = s.withError 3 ∧ memRead off n s = (0, s.withError 3)

/-- R184: at most one error per access, tested in the order bad access, busy write, illegal command. -/
def Obligations.ErrorPriority : Prop :=
  ∀ (s : State) (off : BitVec 9) (n : Nat) (v : Word),
    (if BadAccess off n then memWrite off n v s = s.withError 3
      else if off ≠ 0x1C4 ∧ s.busy = true then memWrite off n v s = s.withError 2
      else if off = 0x1C0 ∧ (decode v).toOption = none then memWrite off n v s = s.withError 1
      else (memWrite off n v s).err = (s.err && !(off == 0x1C4 && v.getLsbD 1))) ∧
    (if BadAccess off n then (memRead off n s).2 = s.withError 3
      else (memRead off n s).2.err = s.err ∧ (memRead off n s).2.ecode = s.ecode)

/-- R160, R25: an idle read returns the register's value and changes nothing; `CMD` reads 0. -/
def Obligations.IdleReadsReturnTheRegister : Prop :=
  ∀ s : State, s.busy = false →
    (∀ (l : Lane) (i : Fin 16), memRead (BitVec.ofNat 9 (0x40 * l.val + 4 * i.val)) 4 s = (s.msg[l][i], s)) ∧
    (∀ (l : Lane) (j : Fin 5), memRead (BitVec.ofNat 9 (0x100 + 0x20 * l.val + 4 * j.val)) 4 s = (s.dig[l][j], s)) ∧
    (∀ l : Lane, memRead (BitVec.ofNat 9 (0x180 + 4 * l.val)) 4 s = (s.seed[l], s)) ∧
    memRead 0x190 4 s = (s.lcgLo, s) ∧ memRead 0x194 4 s = (s.lcgHi, s) ∧
    memRead 0x1C0 4 s = (0, s) ∧ memRead 0x1C4 4 s = (s.statusWord, s)

/-- R207: while busy a read of `DIG`, `SEED` or `LCG` is the next free value of the run, whatever it is, and raises no
error; `MSG`, `STATUS` and `CMD` read as always. -/
def Obligations.BusyReadsAreDraws : Prop :=
  ∀ s : State, s.busy = true →
    (∀ r : Reg, r.drawnWhenBusy = true →
      memRead (BitVec.ofNat 9 r.offset) 4 s = (Config.busyRead s.draws, { s with draws := s.draws + 1 })) ∧
    (∀ (l : Lane) (i : Fin 16), memRead (BitVec.ofNat 9 (0x40 * l.val + 4 * i.val)) 4 s = (s.msg[l][i], s)) ∧
    memRead 0x1C4 4 s = (s.statusWord, s) ∧ memRead 0x1C0 4 s = (0, s)

/-- R26: where each field of `STATUS` stands in its word, the reserved bits 0. -/
def Obligations.StatusWordLayout : Prop :=
  ∀ s : State, s.statusWord.getLsbD 0 = s.busy ∧ s.statusWord.getLsbD 1 = s.err ∧
    s.statusWord.extractLsb' 2 2 = 0 ∧ s.statusWord.extractLsb' 4 4 = s.ecode ∧ s.statusWord.extractLsb' 8 24 = 0 ∧
    s.statusWord.toNat = (if s.busy then 1 else 0) + (if s.err then 2 else 0) + 16 * s.ecode.toNat

/-- R60, R24, R161: an idle write to a data register sets that register and nothing else, and a step whose next event is
that write does so; each half of `LCG` is a register of its own. The delay, the steps to the next reset and the mark of an
accepted command are the model's own fields (log entries 5, 25 and 26). -/
def Obligations.IdleWriteSetsOneRegister : Prop :=
  ∀ (s : State) (r : Reg) (v : Word), s.busy = false → r.isData = true →
    (∃ t, memWrite (BitVec.ofNat 9 r.offset) 4 v s = t ∧
      memRead (BitVec.ofNat 9 r.offset) 4 t = (v, t) ∧ (∀ k : Reg, k ≠ r → t.readReg k = s.readReg k) ∧
      t.pending = s.pending ∧ t.busy = s.busy ∧ t.inputs = s.inputs ∧ t.resets = s.resets ∧ t.vals = s.vals ∧
      t.cmdLast = s.cmdLast ∧ t.delay = s.delay ∧ t.draws = s.draws) ∧
    (∀ (e : Event) (rest : List Event), s.turn = .host → s.inputs = e :: rest →
      (e = .line (.wrReg r v) ∨ e = .write (Config.base + r.offset) 4 v) →
      ∃ t, step s = .next t ∧ t.readReg r = v ∧ (∀ k : Reg, k ≠ r → t.readReg k = s.readReg k) ∧
        t.pending = s.pending ∧ t.busy = s.busy ∧ t.inputs = rest ∧ t.resets = countDown s.resets ∧
        t.vals = s.vals ∧ t.cmdLast = false ∧ t.delay = s.delay - 1 ∧ t.draws = s.draws)

/-! ### The machine -/

/-- R39: after reset nothing is pending, `STATUS` reads 0 and `CMD` reads 0. (The data registers' values after reset are
the model's choice, log entry 1, and no statement rests on them.) -/
def Obligations.ResetLeavesUnitIdle : Prop :=
  State.reset.pending = none ∧ State.reset.statusWord = 0 ∧ (memRead 0x1C4 4 State.reset).1 = 0 ∧
    (memRead 0x1C0 4 State.reset).1 = 0 ∧ State.reset.Idle ∧ State.reset.ErrorFree

/-- R31, R26, R39: the invariant holds right after reset. That no delay is left and that the host values are canonical
are about the model's own fields (log entries 5 and 8). -/
def Obligations.ResetMeetsInvariant : Prop := State.reset.Inv

/-- R26, R27, R29, R31: every step keeps the invariant: `BUSY` is 1 exactly when a command is pending, `STATUS` holds a
legal value, and, of the model's own fields, no delay is left when nothing is pending and the host values are in
canonical form (log entries 5 and 8). -/
def Obligations.StepKeepsInvariant : Prop :=
  ∀ s t : State, s.Inv → step s = .next t → t.Inv

/-- R200: where reset is asserted (log entry 25) the step abandons a pending command, clears `STATUS` and leaves each data
register a free value (the model's form of 'unspecified', log entry 3), whatever completion is due and whatever the host
would do next. That the host keeps its values and the events left is the model's choice (log entry 7). -/
def Obligations.ResetEventAbandonsCommand : Prop :=
  ∀ s : State, s.resetDue = true →
    ∃ t, step s = .next t ∧ t.pending = none ∧ t.busy = false ∧ t.err = false ∧ t.ecode = 0 ∧
      (∀ r : Reg, r.isData = true → t.readReg r = Config.resetReg s.draws r) ∧ t.inputs = s.inputs ∧
      t.vals = s.vals ∧ t.resets = s.resets.tail

/-- R201: reset may come between any two steps: after every run of `k` steps without a reset, of which some may have
found a command pending or repeated a `poll` line, the machine whose one reset is to come after `k` steps (log entry 25)
is reset in the state that run leaves. -/
def Obligations.ResetMayComeBetweenAnyTwoSteps : Prop :=
  ∀ (s t : State) (k : Nat), s.resets = [] → Sys2Proof.core.run k s = .next t →
    Sys2Proof.core.run k { s with resets := [k] } = .next { t with resets := [0] } ∧
    Sys2Proof.core.run (k + 1) { s with resets := [k] } = .next t.resetUnit

/-- R34: where a command is pending, its delay has run out and reset is not asserted, the step is that command's `exec`;
around it a reset to come is one step nearer (log entry 25), so that with no reset to come it is `exec` alone. -/
def Obligations.StepRunsPendingCommand : Prop :=
  ∀ (s : State) (i : Instr), s.pending = some i → s.delay = 0 → s.resetDue = false →
    step s = exec i { s with resets := countDown s.resets } ∧ (s.resets = [] → step s = exec i s)

/-- A step runs the decoded command: with the word of a command placed where the unit takes its next command, the step
is that command's `exec` (with a reset to come one step nearer, log entries 7 and 25). -/
def Obligations.StepRunsPlacedWord : Prop :=
  ∀ (s : State) (i : Instr),
    step (s.withFetchWord 32 (encode i).toNat) =
      exec i { s with pending := some i, busy := true, delay := 0, resets := countDown s.resets }

/-- R33, R163, R164: the host line that writes the word of a command to `CMD` makes it pending, taken off the program,
with a free delay (log entry 5). -/
def Obligations.HostLineStartsCommand : Prop :=
  ∀ (s : State) (i : Instr) (rest : List Event), s.Idle → s.resetDue = false → s.inputs = .line (.cmd i) :: rest →
    step s = .next
      { s with
        inputs := rest, pending := some i, busy := true, cmdLast := true, resets := countDown s.resets
        delay := Config.latency i s.draws, draws := s.draws + 1 }

/-- R35, R206: until its completion or a reset, nothing changes the registers of a pending command or the command
itself, and each access or cycle brings the completion one nearer (log entry 5). -/
def Obligations.OperandsFrozenWhileBusy : Prop :=
  ∀ (s t : State) (i : Instr), s.pending = some i → s.busy = true → s.delay ≠ 0 → s.resetDue = false →
    step s = .next t → s.SameData t ∧ t.pending = some i ∧ t.busy = true ∧ t.delay + 1 = s.delay

/-- R34, R35, R208: a pending command that no reset overtakes completes after finitely many steps, whatever accesses the
host makes meanwhile inside the window, and leaves what `exec` gives from the registers at acceptance. -/
def Obligations.CommandCompletesFromAcceptedValues : Prop :=
  ∀ (s : State) (i : Instr), s.pending = some i → s.busy = true → (∀ e ∈ s.inputs, e.ordinary = true) →
    (∀ n, s.resets.head? = some n → s.delay < n) →
    ∃ t u, Sys2Proof.core.run (s.delay + 1) s = .next t ∧ exec i s = .next u ∧ u.SameData t ∧
      t.pending = none ∧ t.busy = false

/-- R209: an idle unit stays idle until an accepted write to `CMD`. -/
def Obligations.IdleUntilAcceptedCommand : Prop :=
  ∀ s t : State, s.Idle → step s = .next t →
    t.Idle ∨ ∃ (c : Word) (i : Instr) (rest : List Event), decode c = .command i ∧ t.pending = some i ∧
      (s.inputs = .line (.wr 0x1C0 c) :: rest ∨ s.inputs = .write (Config.base + 0x1C0) 4 c :: rest)

/-- R210, R36, R206: a data register changes only by the completion of a command that writes it, by an idle host write
to it, or by reset. -/
def Obligations.OnlyTheseEventsChangeARegister : Prop :=
  ∀ (s t : State) (r : Reg), r.isData = true → step s = .next t → t.readReg r ≠ s.readReg r →
    (∃ i, s.turn = .unit i ∧ i.writes r = true) ∨
    (s.turn = .host ∧ s.busy = false ∧ ∃ (v : Word) (rest : List Event),
      s.inputs = .line (.wr r.offset v) :: rest ∨ s.inputs = .write (Config.base + r.offset) 4 v :: rest) ∨
    s.turn = .reset

/-- R29: while an error is recorded its code stays, until a write to `STATUS` with bit 1 set or a reset clears both. -/
def Obligations.RecordedErrorStaysUntilCleared : Prop :=
  ∀ s t : State, s.err = true → step s = .next t →
    (t.err = true ∧ t.ecode = s.ecode) ∨
    (t.err = false ∧ t.ecode = 0 ∧
      (s.turn = .reset ∨ s.turn = .host ∧ ∃ (v : Word) (rest : List Event), v.getLsbD 1 = true ∧
        (s.inputs = .line (.wr 0x1C4 v) :: rest ∨ s.inputs = .write (Config.base + 0x1C4) 4 v :: rest)))

/-- R165: a `poll` line of any offset of the window, mask and value does one read: the line is taken off exactly where
the word read, masked, is the value, stands first again where it is not, and the state is otherwise the read's (log entry
22). So `wait` ends at its first read when no command is pending, and repeats its read while one is. The delay, the steps
to the next reset and the mark of an accepted command are the model's own fields (log entries 5, 25 and 26). -/
def Obligations.WaitPollsBusy : Prop :=
  ∀ (s : State) (rest : List Event), s.turn = .host →
    (∀ (off : Nat) (mask val : Word) (u : State), off < 0x200 → s.inputs = .line (.poll off mask val) :: rest →
      u = { s with inputs := rest, resets := countDown s.resets, delay := s.delay - 1, cmdLast := false } →
      ∃ t, step s = .next t ∧
        t.inputs = (if (memRead (BitVec.ofNat 9 off) 4 u).1 &&& mask = val then rest else s.inputs) ∧
        t = { (memRead (BitVec.ofNat 9 off) 4 u).2 with inputs := t.inputs }) ∧
    (s.inputs = .line .wait :: rest →
      (s.busy = false → step s = .next
        { s with inputs := rest, resets := countDown s.resets, delay := s.delay - 1, cmdLast := false }) ∧
      (s.busy = true → step s = .next
        { s with resets := countDown s.resets, delay := s.delay - 1, cmdLast := false }))

/-- R166: `clr` clears `ERR` and `ECODE` and changes nothing else of the unit. The delay counter (log entry 5), the steps
to the next reset (log entry 25) and the mark of an accepted command (log entry 26) are the model's own. -/
def Obligations.ClrClearsTheError : Prop :=
  ∀ (s : State) (rest : List Event), s.turn = .host → s.inputs = .line .clr :: rest →
    step s = .next
      { s with
        inputs := rest, resets := countDown s.resets, delay := s.delay - 1, cmdLast := false
        err := false, ecode := 0 }

/-- R163: an idle `rd` line of a register leaves its value in the host value named, every other host value and the unit
as they were. -/
def Obligations.ReadLineSetsOneHostValue : Prop :=
  ∀ (s : State) (r : Reg) (dst : Nat) (rest : List Event), s.Idle → s.resetDue = false →
    s.inputs = .line (.rdReg r dst) :: rest →
    ∃ t, step s = .next t ∧ t.vals.get? dst = some (s.readReg r) ∧
      (∀ k, k ≠ dst → t.vals.get? k = s.vals.get? k) ∧ s.SameUnit t ∧ t.inputs = rest

/-- R54, U12: a host line at an offset outside the window, and a read or a write of any size at an address outside `BASE`
to `BASE + 0x1FF`, is refused by name, as the model's form of 'the platform's'. -/
def Obligations.OutsideWindowIsRefused : Prop :=
  ∀ (s : State) (rest : List Event), s.turn = .host →
    (∀ h : HostLine, 0x200 ≤ h.off → s.inputs = .line h :: rest → step s = .refused (.outsideWindow h.off)) ∧
    (∀ addr n dst : Nat, addr < Config.base ∨ Config.base + 0x200 ≤ addr → s.inputs = .read addr n dst :: rest →
      step s = .refused (.outsideWindow addr)) ∧
    (∀ (addr n : Nat) (v : Word), addr < Config.base ∨ Config.base + 0x200 ≤ addr →
      s.inputs = .write addr n v :: rest → step s = .refused (.outsideWindow addr))

/-- R50, R54, R55, R163: the window is 0x200 bytes from an aligned `BASE`, an address in it is its offset from `BASE`, and
an access at an offset of the window, idle or busy, by a `wr` or `rd` line (of 4 bytes) or at its address (of any size),
is `MemWrite` or `MemRead` at that offset, the word read left in the host value named. That an access that begins inside
the window and ends outside it is such an access too is log entry 11 (DEDUCED). A step on the host's turn performs the
next event; what it does to the delay, the steps to the next reset and the mark of an accepted command is the model's
choice (log entries 5, 25 and 26). -/
def Obligations.WindowIsPlacedAtBase : Prop :=
  Config.base % 0x200 = 0 ∧
  (∀ addr off, addressOffset Config.base addr = some off ↔
    Config.base ≤ addr ∧ addr < Config.base + 0x200 ∧ off.toNat = addr - Config.base) ∧
  (∀ (e : Event) (off n : Nat) (v : Word) (s : State), off < 0x200 →
    (e = .write (Config.base + off) n v ∨ n = 4 ∧ e = .line (.wr off v)) →
    performEvent e s = .next (memWrite (BitVec.ofNat 9 off) n v s)) ∧
  (∀ (e : Event) (off n dst : Nat) (s : State), off < 0x200 →
    (e = .read (Config.base + off) n dst ∨ n = 4 ∧ e = .line (.rd off dst)) → ∃ t,
    performEvent e s = .next t ∧
    t.vals.get? dst = some (memRead (BitVec.ofNat 9 off) n s).1 ∧
    (∀ k, k ≠ dst → t.vals.get? k = s.vals.get? k) ∧
    t = { (memRead (BitVec.ofNat 9 off) n s).2 with vals := t.vals }) ∧
  (∀ (s : State) (e : Event) (rest : List Event), s.turn = .host → s.inputs = e :: rest →
    step s = performEvent e
      { s with inputs := rest, resets := countDown s.resets, delay := s.delay - 1, cmdLast := false })

/-- R170 to R173, R175 to R177: the message block of a host that follows the source: words 0 to 4 are the nonce, word 5
carries the timing registers, words 6 and 7 are the hardware identity at its places XORed with a fixed constant and, one
of them, with the frame counter, one of words 10 to 12 is the key input and the others do not depend on it, words 13 to 15
are the padding, and candidates of one session differ in words 5, 8 and 9 alone. -/
def Obligations.MessageBlockLayout : Prop :=
  ∀ (h : HostSession) (c c' : HostCandidate),
    (messageBlock h c)[13] = 0x80000000 ∧ (messageBlock h c)[14] = 0 ∧ (messageBlock h c)[15] = 416 ∧
    (messageBlock h c)[5] = Config.norm ((c.vcount <<< 16) ||| c.timer0) ∧
    (messageBlock h c)[8] = c.dateCode ∧ (messageBlock h c)[9] = c.timeCode ∧
    (∀ i : Fin 5, (messageBlock h c)[i.val] = Config.norm h.nonce[i]) ∧
    (∀ w : Fin 2, (messageBlock h c)[6 + w.val] =
      placedIdentityWith Config.hardwarePlace h.hardwareId w ^^^ Config.hardwareConst w ^^^
        (if w = Config.frameWord then h.frameCounter else 0)) ∧
    (messageBlock h c)[10 + Config.keyPlace.val] = h.keyInput ∧
    (∀ (j : Fin 3) (key : Word), j ≠ Config.keyPlace →
      (messageBlock { h with keyInput := key } c)[10 + j.val] = (messageBlock h c)[10 + j.val]) ∧
    (∀ i : Fin 16, i ≠ 5 → i ≠ 8 → i ≠ 9 → (messageBlock h c)[i] = (messageBlock h c')[i])

/-- R109: with the source's padding in words 13 to 15, the digest of the block is the SHA-1 digest of the 52 bytes of
words 0 to 12, each word's most significant byte first (the padding rule of SHA-1 is log entry 24). -/
def Obligations.PaddedBlockIsSha1OfItsBytes : Prop :=
  ∀ B : Block, B[13] = 0x80000000 → B[14] = 0 → B[15] = 0x1A0 →
    compress B = sha1OneBlock ((B.toList.take 13).flatMap bytesMsbFirst)

/-- R174, X8 (95_test_vectors.md): the hardware time code differs from the plain one by exactly bit 30, and only for
VariantA and VariantB from 12 hours on. That the bit differs whatever the plain code holds is log entry 21 (DEDUCED). -/
def Obligations.TimeCodeDiffersByOneBit : Prop :=
  ∀ (p : HostProfile) (seconds : Nat) (plain : Word) (k : Nat), k < 32 →
    ((timeCodeForHardware p seconds plain).getLsbD k ≠ plain.getLsbD k ↔
      p ≠ .variantC ∧ 43200 ≤ seconds ∧ k = 30)

/-- R168: with one event left, the step that performs it ends the run exactly where it leaves no event and is no accepted
write to `CMD`; a run whose last line is an accepted command ends with the completion of that command (if no reset comes
before, log entry 26); and a run ends once. -/
def Obligations.RunEndsWithTheLastCommand : Prop :=
  (∀ (s t : State) (e : Event), s.turn = .host → s.inputs = [e] → step s = .next t →
    (EndsRun s t ↔ t.inputs = [] ∧ ¬(s.busy = false ∧ ∃ (c : Word) (i : Instr), decode c = .command i ∧
      (e = .line (.wr 0x1C0 c) ∨ e = .write (Config.base + 0x1C0) 4 c)))) ∧
  (∀ (s : State) (i : Instr), s.Idle → s.inputs = [.line (.cmd i)] →
    (∀ n, s.resets.head? = some n → Config.latency i s.draws + 1 < n) →
    ∃ t u v, step s = .next t ∧ ¬EndsRun s t ∧ Sys2Proof.core.run t.delay t = .next u ∧ step u = .next v ∧
      EndsRun u v) ∧
  (∀ s t : State, s.RunEnded → step s = .next t → t.RunEnded)
end

