-- ==== Sys2Proof/Laws/State.lean ====
section
/-!
SUPPORT. One lemma per field per update of the state, so that no later proof unfolds a record update.
-/

namespace Sys2Proof.Machine

variable (s : State)

/-! `DIG[l] <- d` -/

@[simp] theorem State.setDig_msg (l : Lane) (d : Digest) : (s.setDig l d).msg = s.msg := rfl
@[simp] theorem State.setDig_dig (l : Lane) (d : Digest) : (s.setDig l d).dig = s.dig.set l.val d := rfl
@[simp] theorem State.setDig_seed (l : Lane) (d : Digest) : (s.setDig l d).seed = s.seed := rfl
@[simp] theorem State.setDig_lcgLo (l : Lane) (d : Digest) : (s.setDig l d).lcgLo = s.lcgLo := rfl
@[simp] theorem State.setDig_lcgHi (l : Lane) (d : Digest) : (s.setDig l d).lcgHi = s.lcgHi := rfl
@[simp] theorem State.setDig_busy (l : Lane) (d : Digest) : (s.setDig l d).busy = s.busy := rfl
@[simp] theorem State.setDig_err (l : Lane) (d : Digest) : (s.setDig l d).err = s.err := rfl
@[simp] theorem State.setDig_ecode (l : Lane) (d : Digest) : (s.setDig l d).ecode = s.ecode := rfl
@[simp] theorem State.setDig_pending (l : Lane) (d : Digest) : (s.setDig l d).pending = s.pending := rfl
@[simp] theorem State.setDig_inputs (l : Lane) (d : Digest) : (s.setDig l d).inputs = s.inputs := rfl
@[simp] theorem State.setDig_resets (l : Lane) (d : Digest) : (s.setDig l d).resets = s.resets := rfl
@[simp] theorem State.setDig_vals (l : Lane) (d : Digest) : (s.setDig l d).vals = s.vals := rfl
@[simp] theorem State.setDig_cmdLast (l : Lane) (d : Digest) : (s.setDig l d).cmdLast = s.cmdLast := rfl
@[simp] theorem State.setDig_delay (l : Lane) (d : Digest) : (s.setDig l d).delay = s.delay := rfl
@[simp] theorem State.setDig_draws (l : Lane) (d : Digest) : (s.setDig l d).draws = s.draws := rfl

/-! `DIG[0..3] <- ds` -/

@[simp] theorem State.setDigs_msg (ds : Vector Digest 4) : (s.setDigs ds).msg = s.msg := rfl
@[simp] theorem State.setDigs_dig (ds : Vector Digest 4) : (s.setDigs ds).dig = ds := rfl
@[simp] theorem State.setDigs_seed (ds : Vector Digest 4) : (s.setDigs ds).seed = s.seed := rfl
@[simp] theorem State.setDigs_lcgLo (ds : Vector Digest 4) : (s.setDigs ds).lcgLo = s.lcgLo := rfl
@[simp] theorem State.setDigs_lcgHi (ds : Vector Digest 4) : (s.setDigs ds).lcgHi = s.lcgHi := rfl
@[simp] theorem State.setDigs_busy (ds : Vector Digest 4) : (s.setDigs ds).busy = s.busy := rfl
@[simp] theorem State.setDigs_err (ds : Vector Digest 4) : (s.setDigs ds).err = s.err := rfl
@[simp] theorem State.setDigs_ecode (ds : Vector Digest 4) : (s.setDigs ds).ecode = s.ecode := rfl
@[simp] theorem State.setDigs_pending (ds : Vector Digest 4) : (s.setDigs ds).pending = s.pending := rfl
@[simp] theorem State.setDigs_inputs (ds : Vector Digest 4) : (s.setDigs ds).inputs = s.inputs := rfl
@[simp] theorem State.setDigs_resets (ds : Vector Digest 4) : (s.setDigs ds).resets = s.resets := rfl
@[simp] theorem State.setDigs_vals (ds : Vector Digest 4) : (s.setDigs ds).vals = s.vals := rfl
@[simp] theorem State.setDigs_cmdLast (ds : Vector Digest 4) : (s.setDigs ds).cmdLast = s.cmdLast := rfl
@[simp] theorem State.setDigs_delay (ds : Vector Digest 4) : (s.setDigs ds).delay = s.delay := rfl
@[simp] theorem State.setDigs_draws (ds : Vector Digest 4) : (s.setDigs ds).draws = s.draws := rfl

/-! `SEED[l] <- w` -/

@[simp] theorem State.setSeed_msg (l : Lane) (w : Word) : (s.setSeed l w).msg = s.msg := rfl
@[simp] theorem State.setSeed_dig (l : Lane) (w : Word) : (s.setSeed l w).dig = s.dig := rfl
@[simp] theorem State.setSeed_seed (l : Lane) (w : Word) : (s.setSeed l w).seed = s.seed.set l.val w := rfl
@[simp] theorem State.setSeed_lcgLo (l : Lane) (w : Word) : (s.setSeed l w).lcgLo = s.lcgLo := rfl
@[simp] theorem State.setSeed_lcgHi (l : Lane) (w : Word) : (s.setSeed l w).lcgHi = s.lcgHi := rfl
@[simp] theorem State.setSeed_busy (l : Lane) (w : Word) : (s.setSeed l w).busy = s.busy := rfl
@[simp] theorem State.setSeed_err (l : Lane) (w : Word) : (s.setSeed l w).err = s.err := rfl
@[simp] theorem State.setSeed_ecode (l : Lane) (w : Word) : (s.setSeed l w).ecode = s.ecode := rfl
@[simp] theorem State.setSeed_pending (l : Lane) (w : Word) : (s.setSeed l w).pending = s.pending := rfl
@[simp] theorem State.setSeed_inputs (l : Lane) (w : Word) : (s.setSeed l w).inputs = s.inputs := rfl
@[simp] theorem State.setSeed_resets (l : Lane) (w : Word) : (s.setSeed l w).resets = s.resets := rfl
@[simp] theorem State.setSeed_vals (l : Lane) (w : Word) : (s.setSeed l w).vals = s.vals := rfl
@[simp] theorem State.setSeed_cmdLast (l : Lane) (w : Word) : (s.setSeed l w).cmdLast = s.cmdLast := rfl
@[simp] theorem State.setSeed_delay (l : Lane) (w : Word) : (s.setSeed l w).delay = s.delay := rfl
@[simp] theorem State.setSeed_draws (l : Lane) (w : Word) : (s.setSeed l w).draws = s.draws := rfl

/-! `SEED[0..3] <- ws` -/

@[simp] theorem State.setSeeds_msg (ws : Vector Word 4) : (s.setSeeds ws).msg = s.msg := rfl
@[simp] theorem State.setSeeds_dig (ws : Vector Word 4) : (s.setSeeds ws).dig = s.dig := rfl
@[simp] theorem State.setSeeds_seed (ws : Vector Word 4) : (s.setSeeds ws).seed = ws := rfl
@[simp] theorem State.setSeeds_lcgLo (ws : Vector Word 4) : (s.setSeeds ws).lcgLo = s.lcgLo := rfl
@[simp] theorem State.setSeeds_lcgHi (ws : Vector Word 4) : (s.setSeeds ws).lcgHi = s.lcgHi := rfl
@[simp] theorem State.setSeeds_busy (ws : Vector Word 4) : (s.setSeeds ws).busy = s.busy := rfl
@[simp] theorem State.setSeeds_err (ws : Vector Word 4) : (s.setSeeds ws).err = s.err := rfl
@[simp] theorem State.setSeeds_ecode (ws : Vector Word 4) : (s.setSeeds ws).ecode = s.ecode := rfl
@[simp] theorem State.setSeeds_pending (ws : Vector Word 4) : (s.setSeeds ws).pending = s.pending := rfl
@[simp] theorem State.setSeeds_inputs (ws : Vector Word 4) : (s.setSeeds ws).inputs = s.inputs := rfl
@[simp] theorem State.setSeeds_resets (ws : Vector Word 4) : (s.setSeeds ws).resets = s.resets := rfl
@[simp] theorem State.setSeeds_vals (ws : Vector Word 4) : (s.setSeeds ws).vals = s.vals := rfl
@[simp] theorem State.setSeeds_cmdLast (ws : Vector Word 4) : (s.setSeeds ws).cmdLast = s.cmdLast := rfl
@[simp] theorem State.setSeeds_delay (ws : Vector Word 4) : (s.setSeeds ws).delay = s.delay := rfl
@[simp] theorem State.setSeeds_draws (ws : Vector Word 4) : (s.setSeeds ws).draws = s.draws := rfl

/-! `LCG <- x` -/

@[simp] theorem State.setLcg_msg (x : DWord) : (s.setLcg x).msg = s.msg := rfl
@[simp] theorem State.setLcg_dig (x : DWord) : (s.setLcg x).dig = s.dig := rfl
@[simp] theorem State.setLcg_seed (x : DWord) : (s.setLcg x).seed = s.seed := rfl
@[simp] theorem State.setLcg_lcgLo (x : DWord) : (s.setLcg x).lcgLo = x.extractLsb' 0 32 := rfl
@[simp] theorem State.setLcg_lcgHi (x : DWord) : (s.setLcg x).lcgHi = x.extractLsb' 32 32 := rfl
@[simp] theorem State.setLcg_busy (x : DWord) : (s.setLcg x).busy = s.busy := rfl
@[simp] theorem State.setLcg_err (x : DWord) : (s.setLcg x).err = s.err := rfl
@[simp] theorem State.setLcg_ecode (x : DWord) : (s.setLcg x).ecode = s.ecode := rfl
@[simp] theorem State.setLcg_pending (x : DWord) : (s.setLcg x).pending = s.pending := rfl
@[simp] theorem State.setLcg_inputs (x : DWord) : (s.setLcg x).inputs = s.inputs := rfl
@[simp] theorem State.setLcg_resets (x : DWord) : (s.setLcg x).resets = s.resets := rfl
@[simp] theorem State.setLcg_vals (x : DWord) : (s.setLcg x).vals = s.vals := rfl
@[simp] theorem State.setLcg_cmdLast (x : DWord) : (s.setLcg x).cmdLast = s.cmdLast := rfl
@[simp] theorem State.setLcg_delay (x : DWord) : (s.setLcg x).delay = s.delay := rfl
@[simp] theorem State.setLcg_draws (x : DWord) : (s.setLcg x).draws = s.draws := rfl

/-! acceptance (R33) -/

@[simp] theorem State.accept_msg (i : Instr) : (s.accept i).msg = s.msg := rfl
@[simp] theorem State.accept_dig (i : Instr) : (s.accept i).dig = s.dig := rfl
@[simp] theorem State.accept_seed (i : Instr) : (s.accept i).seed = s.seed := rfl
@[simp] theorem State.accept_lcgLo (i : Instr) : (s.accept i).lcgLo = s.lcgLo := rfl
@[simp] theorem State.accept_lcgHi (i : Instr) : (s.accept i).lcgHi = s.lcgHi := rfl
@[simp] theorem State.accept_busy (i : Instr) : (s.accept i).busy = true := rfl
@[simp] theorem State.accept_err (i : Instr) : (s.accept i).err = s.err := rfl
@[simp] theorem State.accept_ecode (i : Instr) : (s.accept i).ecode = s.ecode := rfl
@[simp] theorem State.accept_pending (i : Instr) : (s.accept i).pending = some i := rfl
@[simp] theorem State.accept_inputs (i : Instr) : (s.accept i).inputs = s.inputs := rfl
@[simp] theorem State.accept_resets (i : Instr) : (s.accept i).resets = s.resets := rfl
@[simp] theorem State.accept_vals (i : Instr) : (s.accept i).vals = s.vals := rfl
@[simp] theorem State.accept_cmdLast (i : Instr) : (s.accept i).cmdLast = true := rfl
@[simp] theorem State.accept_delay (i : Instr) : (s.accept i).delay = Config.latency i s.draws := rfl
@[simp] theorem State.accept_draws (i : Instr) : (s.accept i).draws = s.draws + 1 := rfl

/-! completion (R34) -/

@[simp] theorem State.complete_msg : s.complete.msg = s.msg := rfl
@[simp] theorem State.complete_dig : s.complete.dig = s.dig := rfl
@[simp] theorem State.complete_seed : s.complete.seed = s.seed := rfl
@[simp] theorem State.complete_lcgLo : s.complete.lcgLo = s.lcgLo := rfl
@[simp] theorem State.complete_lcgHi : s.complete.lcgHi = s.lcgHi := rfl
@[simp] theorem State.complete_busy : s.complete.busy = false := rfl
@[simp] theorem State.complete_err : s.complete.err = s.err := rfl
@[simp] theorem State.complete_ecode : s.complete.ecode = s.ecode := rfl
@[simp] theorem State.complete_pending : s.complete.pending = none := rfl
@[simp] theorem State.complete_inputs : s.complete.inputs = s.inputs := rfl
@[simp] theorem State.complete_resets : s.complete.resets = s.resets := rfl
@[simp] theorem State.complete_vals : s.complete.vals = s.vals := rfl
@[simp] theorem State.complete_cmdLast : s.complete.cmdLast = s.cmdLast := rfl
@[simp] theorem State.complete_delay : s.complete.delay = s.delay := rfl
@[simp] theorem State.complete_draws : s.complete.draws = s.draws := rfl

/-! one cycle without an access -/

@[simp] theorem State.tick_msg : s.tick.msg = s.msg := rfl
@[simp] theorem State.tick_dig : s.tick.dig = s.dig := rfl
@[simp] theorem State.tick_seed : s.tick.seed = s.seed := rfl
@[simp] theorem State.tick_lcgLo : s.tick.lcgLo = s.lcgLo := rfl
@[simp] theorem State.tick_lcgHi : s.tick.lcgHi = s.lcgHi := rfl
@[simp] theorem State.tick_busy : s.tick.busy = s.busy := rfl
@[simp] theorem State.tick_err : s.tick.err = s.err := rfl
@[simp] theorem State.tick_ecode : s.tick.ecode = s.ecode := rfl
@[simp] theorem State.tick_pending : s.tick.pending = s.pending := rfl
@[simp] theorem State.tick_inputs : s.tick.inputs = s.inputs := rfl
@[simp] theorem State.tick_resets : s.tick.resets = s.resets := rfl
@[simp] theorem State.tick_vals : s.tick.vals = s.vals := rfl
@[simp] theorem State.tick_cmdLast : s.tick.cmdLast = s.cmdLast := rfl
@[simp] theorem State.tick_delay : s.tick.delay = s.delay - 1 := rfl
@[simp] theorem State.tick_draws : s.tick.draws = s.draws := rfl

/-! the host's next access -/

@[simp] theorem State.takeEvent_msg (rest : List Event) : (s.takeEvent rest).msg = s.msg := rfl
@[simp] theorem State.takeEvent_dig (rest : List Event) : (s.takeEvent rest).dig = s.dig := rfl
@[simp] theorem State.takeEvent_seed (rest : List Event) : (s.takeEvent rest).seed = s.seed := rfl
@[simp] theorem State.takeEvent_lcgLo (rest : List Event) : (s.takeEvent rest).lcgLo = s.lcgLo := rfl
@[simp] theorem State.takeEvent_lcgHi (rest : List Event) : (s.takeEvent rest).lcgHi = s.lcgHi := rfl
@[simp] theorem State.takeEvent_busy (rest : List Event) : (s.takeEvent rest).busy = s.busy := rfl
@[simp] theorem State.takeEvent_err (rest : List Event) : (s.takeEvent rest).err = s.err := rfl
@[simp] theorem State.takeEvent_ecode (rest : List Event) : (s.takeEvent rest).ecode = s.ecode := rfl
@[simp] theorem State.takeEvent_pending (rest : List Event) : (s.takeEvent rest).pending = s.pending := rfl
@[simp] theorem State.takeEvent_inputs (rest : List Event) : (s.takeEvent rest).inputs = rest := rfl
@[simp] theorem State.takeEvent_resets (rest : List Event) : (s.takeEvent rest).resets = s.resets := rfl
@[simp] theorem State.takeEvent_vals (rest : List Event) : (s.takeEvent rest).vals = s.vals := rfl
@[simp] theorem State.takeEvent_cmdLast (rest : List Event) : (s.takeEvent rest).cmdLast = false := rfl
@[simp] theorem State.takeEvent_delay (rest : List Event) : (s.takeEvent rest).delay = s.delay - 1 := rfl
@[simp] theorem State.takeEvent_draws (rest : List Event) : (s.takeEvent rest).draws = s.draws := rfl

/-! a step that is no reset passes -/

@[simp] theorem State.passStep_msg : s.passStep.msg = s.msg := rfl
@[simp] theorem State.passStep_dig : s.passStep.dig = s.dig := rfl
@[simp] theorem State.passStep_seed : s.passStep.seed = s.seed := rfl
@[simp] theorem State.passStep_lcgLo : s.passStep.lcgLo = s.lcgLo := rfl
@[simp] theorem State.passStep_lcgHi : s.passStep.lcgHi = s.lcgHi := rfl
@[simp] theorem State.passStep_busy : s.passStep.busy = s.busy := rfl
@[simp] theorem State.passStep_err : s.passStep.err = s.err := rfl
@[simp] theorem State.passStep_ecode : s.passStep.ecode = s.ecode := rfl
@[simp] theorem State.passStep_pending : s.passStep.pending = s.pending := rfl
@[simp] theorem State.passStep_inputs : s.passStep.inputs = s.inputs := rfl
@[simp] theorem State.passStep_resets : s.passStep.resets = countDown s.resets := rfl
@[simp] theorem State.passStep_vals : s.passStep.vals = s.vals := rfl
@[simp] theorem State.passStep_cmdLast : s.passStep.cmdLast = s.cmdLast := rfl
@[simp] theorem State.passStep_delay : s.passStep.delay = s.delay := rfl
@[simp] theorem State.passStep_draws : s.passStep.draws = s.draws := rfl

/-! one free value drawn -/

@[simp] theorem State.bumpDraws_msg : s.bumpDraws.msg = s.msg := rfl
@[simp] theorem State.bumpDraws_dig : s.bumpDraws.dig = s.dig := rfl
@[simp] theorem State.bumpDraws_seed : s.bumpDraws.seed = s.seed := rfl
@[simp] theorem State.bumpDraws_lcgLo : s.bumpDraws.lcgLo = s.lcgLo := rfl
@[simp] theorem State.bumpDraws_lcgHi : s.bumpDraws.lcgHi = s.lcgHi := rfl
@[simp] theorem State.bumpDraws_busy : s.bumpDraws.busy = s.busy := rfl
@[simp] theorem State.bumpDraws_err : s.bumpDraws.err = s.err := rfl
@[simp] theorem State.bumpDraws_ecode : s.bumpDraws.ecode = s.ecode := rfl
@[simp] theorem State.bumpDraws_pending : s.bumpDraws.pending = s.pending := rfl
@[simp] theorem State.bumpDraws_inputs : s.bumpDraws.inputs = s.inputs := rfl
@[simp] theorem State.bumpDraws_resets : s.bumpDraws.resets = s.resets := rfl
@[simp] theorem State.bumpDraws_vals : s.bumpDraws.vals = s.vals := rfl
@[simp] theorem State.bumpDraws_cmdLast : s.bumpDraws.cmdLast = s.cmdLast := rfl
@[simp] theorem State.bumpDraws_delay : s.bumpDraws.delay = s.delay := rfl
@[simp] theorem State.bumpDraws_draws : s.bumpDraws.draws = s.draws + 1 := rfl

/-! `vN <- v` -/

@[simp] theorem State.setVal_msg (n : Nat) (v : Word) : (s.setVal n v).msg = s.msg := rfl
@[simp] theorem State.setVal_dig (n : Nat) (v : Word) : (s.setVal n v).dig = s.dig := rfl
@[simp] theorem State.setVal_seed (n : Nat) (v : Word) : (s.setVal n v).seed = s.seed := rfl
@[simp] theorem State.setVal_lcgLo (n : Nat) (v : Word) : (s.setVal n v).lcgLo = s.lcgLo := rfl
@[simp] theorem State.setVal_lcgHi (n : Nat) (v : Word) : (s.setVal n v).lcgHi = s.lcgHi := rfl
@[simp] theorem State.setVal_busy (n : Nat) (v : Word) : (s.setVal n v).busy = s.busy := rfl
@[simp] theorem State.setVal_err (n : Nat) (v : Word) : (s.setVal n v).err = s.err := rfl
@[simp] theorem State.setVal_ecode (n : Nat) (v : Word) : (s.setVal n v).ecode = s.ecode := rfl
@[simp] theorem State.setVal_pending (n : Nat) (v : Word) : (s.setVal n v).pending = s.pending := rfl
@[simp] theorem State.setVal_inputs (n : Nat) (v : Word) : (s.setVal n v).inputs = s.inputs := rfl
@[simp] theorem State.setVal_resets (n : Nat) (v : Word) : (s.setVal n v).resets = s.resets := rfl
@[simp] theorem State.setVal_vals (n : Nat) (v : Word) : (s.setVal n v).vals = s.vals.put n v := rfl
@[simp] theorem State.setVal_cmdLast (n : Nat) (v : Word) : (s.setVal n v).cmdLast = s.cmdLast := rfl
@[simp] theorem State.setVal_delay (n : Nat) (v : Word) : (s.setVal n v).delay = s.delay := rfl
@[simp] theorem State.setVal_draws (n : Nat) (v : Word) : (s.setVal n v).draws = s.draws := rfl

/-! an event put in front -/

@[simp] theorem State.pushInput_msg (e : Event) : (s.pushInput e).msg = s.msg := rfl
@[simp] theorem State.pushInput_dig (e : Event) : (s.pushInput e).dig = s.dig := rfl
@[simp] theorem State.pushInput_seed (e : Event) : (s.pushInput e).seed = s.seed := rfl
@[simp] theorem State.pushInput_lcgLo (e : Event) : (s.pushInput e).lcgLo = s.lcgLo := rfl
@[simp] theorem State.pushInput_lcgHi (e : Event) : (s.pushInput e).lcgHi = s.lcgHi := rfl
@[simp] theorem State.pushInput_busy (e : Event) : (s.pushInput e).busy = s.busy := rfl
@[simp] theorem State.pushInput_err (e : Event) : (s.pushInput e).err = s.err := rfl
@[simp] theorem State.pushInput_ecode (e : Event) : (s.pushInput e).ecode = s.ecode := rfl
@[simp] theorem State.pushInput_pending (e : Event) : (s.pushInput e).pending = s.pending := rfl
@[simp] theorem State.pushInput_inputs (e : Event) : (s.pushInput e).inputs = e :: s.inputs := rfl
@[simp] theorem State.pushInput_resets (e : Event) : (s.pushInput e).resets = s.resets := rfl
@[simp] theorem State.pushInput_vals (e : Event) : (s.pushInput e).vals = s.vals := rfl
@[simp] theorem State.pushInput_cmdLast (e : Event) : (s.pushInput e).cmdLast = s.cmdLast := rfl
@[simp] theorem State.pushInput_delay (e : Event) : (s.pushInput e).delay = s.delay := rfl
@[simp] theorem State.pushInput_draws (e : Event) : (s.pushInput e).draws = s.draws := rfl

/-! `raise Error` (R183) -/

@[simp] theorem State.raiseError_msg (c : ErrorCode) : (s.raiseError c).msg = s.msg := rfl
@[simp] theorem State.raiseError_dig (c : ErrorCode) : (s.raiseError c).dig = s.dig := rfl
@[simp] theorem State.raiseError_seed (c : ErrorCode) : (s.raiseError c).seed = s.seed := rfl
@[simp] theorem State.raiseError_lcgLo (c : ErrorCode) : (s.raiseError c).lcgLo = s.lcgLo := rfl
@[simp] theorem State.raiseError_lcgHi (c : ErrorCode) : (s.raiseError c).lcgHi = s.lcgHi := rfl
@[simp] theorem State.raiseError_busy (c : ErrorCode) : (s.raiseError c).busy = s.busy := rfl
@[simp] theorem State.raiseError_err (c : ErrorCode) : (s.raiseError c).err = true := rfl
@[simp] theorem State.raiseError_ecode (c : ErrorCode) :
    (s.raiseError c).ecode = if s.err then s.ecode else c.code := rfl
@[simp] theorem State.raiseError_pending (c : ErrorCode) : (s.raiseError c).pending = s.pending := rfl
@[simp] theorem State.raiseError_inputs (c : ErrorCode) : (s.raiseError c).inputs = s.inputs := rfl
@[simp] theorem State.raiseError_resets (c : ErrorCode) : (s.raiseError c).resets = s.resets := rfl
@[simp] theorem State.raiseError_vals (c : ErrorCode) : (s.raiseError c).vals = s.vals := rfl
@[simp] theorem State.raiseError_cmdLast (c : ErrorCode) : (s.raiseError c).cmdLast = s.cmdLast := rfl
@[simp] theorem State.raiseError_delay (c : ErrorCode) : (s.raiseError c).delay = s.delay := rfl
@[simp] theorem State.raiseError_draws (c : ErrorCode) : (s.raiseError c).draws = s.draws := rfl

/-! the clearing of the error (R28) -/

@[simp] theorem State.clearError_msg : s.clearError.msg = s.msg := rfl
@[simp] theorem State.clearError_dig : s.clearError.dig = s.dig := rfl
@[simp] theorem State.clearError_seed : s.clearError.seed = s.seed := rfl
@[simp] theorem State.clearError_lcgLo : s.clearError.lcgLo = s.lcgLo := rfl
@[simp] theorem State.clearError_lcgHi : s.clearError.lcgHi = s.lcgHi := rfl
@[simp] theorem State.clearError_busy : s.clearError.busy = s.busy := rfl
@[simp] theorem State.clearError_err : s.clearError.err = false := rfl
@[simp] theorem State.clearError_ecode : s.clearError.ecode = 0 := rfl
@[simp] theorem State.clearError_pending : s.clearError.pending = s.pending := rfl
@[simp] theorem State.clearError_inputs : s.clearError.inputs = s.inputs := rfl
@[simp] theorem State.clearError_resets : s.clearError.resets = s.resets := rfl
@[simp] theorem State.clearError_vals : s.clearError.vals = s.vals := rfl
@[simp] theorem State.clearError_cmdLast : s.clearError.cmdLast = s.cmdLast := rfl
@[simp] theorem State.clearError_delay : s.clearError.delay = s.delay := rfl
@[simp] theorem State.clearError_draws : s.clearError.draws = s.draws := rfl

/-! the reset event (R200) -/

@[simp] theorem State.resetUnit_msg :
    s.resetUnit.msg = Vector.ofFn fun l => Vector.ofFn fun i => Config.resetReg s.draws (.msg l i) := rfl
@[simp] theorem State.resetUnit_dig :
    s.resetUnit.dig = Vector.ofFn fun l => Vector.ofFn fun j => Config.resetReg s.draws (.dig l j) := rfl
@[simp] theorem State.resetUnit_seed :
    s.resetUnit.seed = Vector.ofFn fun l => Config.resetReg s.draws (.seed l) := rfl
@[simp] theorem State.resetUnit_lcgLo : s.resetUnit.lcgLo = Config.resetReg s.draws .lcgLo := rfl
@[simp] theorem State.resetUnit_lcgHi : s.resetUnit.lcgHi = Config.resetReg s.draws .lcgHi := rfl
@[simp] theorem State.resetUnit_busy : s.resetUnit.busy = false := rfl
@[simp] theorem State.resetUnit_err : s.resetUnit.err = false := rfl
@[simp] theorem State.resetUnit_ecode : s.resetUnit.ecode = 0 := rfl
@[simp] theorem State.resetUnit_pending : s.resetUnit.pending = none := rfl
@[simp] theorem State.resetUnit_inputs : s.resetUnit.inputs = s.inputs := rfl
@[simp] theorem State.resetUnit_resets : s.resetUnit.resets = s.resets.tail := rfl
@[simp] theorem State.resetUnit_vals : s.resetUnit.vals = s.vals := rfl
@[simp] theorem State.resetUnit_cmdLast : s.resetUnit.cmdLast = s.cmdLast := rfl
@[simp] theorem State.resetUnit_delay : s.resetUnit.delay = 0 := rfl
@[simp] theorem State.resetUnit_draws : s.resetUnit.draws = s.draws + 1 := rfl

end Sys2Proof.Machine
end

