-- ==== Sys2Proof/Laws/Ops.lean ====
section
/-!
SUPPORT. What the shared operations of Machine/Ops.lean and Machine/Flags.lean do: the host values keep their canonical
form and read back what was put; an error raised keeps `STATUS` legal; which command is due and whose turn it is.
-/

namespace Sys2Proof.Machine

/-! ### Host values -/

theorem HostVals.put_all (vs : HostVals) (n : Nat) (v : Word) (p : Nat × Word → Bool)
    (hn : p (n, v) = true) (h : vs.all p = true) : (vs.put n v).all p = true := by
  induction vs with
  | nil => simp [HostVals.put, hn]
  | cons x rest ih =>
    obtain ⟨m, w⟩ := x
    simp only [List.all_cons, Bool.and_eq_true] at h
    simp only [HostVals.put]
    split_ifs
    · simp [hn, h]
    · simp [hn, h]
    · simp [h, ih h.2]

/-- Putting a host value keeps the canonical form. -/
theorem HostVals.put_wf (vs : HostVals) (n : Nat) (v : Word) (h : vs.wf = true) : (vs.put n v).wf = true := by
  induction vs with
  | nil => rfl
  | cons x rest ih =>
    obtain ⟨m, w⟩ := x
    simp only [HostVals.wf, Bool.and_eq_true] at h
    simp only [HostVals.put]
    split_ifs with h1 h2
    · simp only [HostVals.wf, List.all_cons, Bool.and_eq_true, decide_eq_true_eq]
      refine ⟨⟨h1, ?_⟩, h⟩
      rw [List.all_eq_true] at h ⊢
      intro p hp
      have := h.1 p hp
      simp only [decide_eq_true_eq] at this ⊢
      omega
    · subst h2
      simpa [HostVals.wf] using h
    · simp only [HostVals.wf, Bool.and_eq_true]
      exact ⟨HostVals.put_all _ _ _ _ (by simp; omega) h.1, ih h.2⟩

/-- A host value reads back as put. -/
theorem HostVals.get_put_same (vs : HostVals) (n : Nat) (v : Word) : (vs.put n v).get? n = some v := by
  induction vs with
  | nil => simp [HostVals.put, HostVals.get?]
  | cons x rest ih =>
    obtain ⟨m, w⟩ := x
    simp only [HostVals.put]
    split_ifs with h1 h2
    · simp [HostVals.get?]
    · simp [HostVals.get?]
    · simp [HostVals.get?, h2, ih]

/-- Putting a host value leaves every other as it was. -/
theorem HostVals.get_put_other (vs : HostVals) (n k : Nat) (v : Word) (hk : k ≠ n) :
    (vs.put n v).get? k = vs.get? k := by
  induction vs with
  | nil => simp [HostVals.put, HostVals.get?, hk]
  | cons x rest ih =>
    obtain ⟨m, w⟩ := x
    simp only [HostVals.put]
    split_ifs with h1 h2
    · simp [HostVals.get?, hk]
    · subst h2
      simp [HostVals.get?, hk]
    · simp [HostVals.get?, ih]

/-! ### Status -/

/-- An error raised on a legal `STATUS` leaves a legal one. -/
theorem State.raiseError_statusLegal (s : State) (c : ErrorCode) (h : s.statusLegal = true) :
    (s.raiseError c).statusLegal = true := by
  unfold State.statusLegal at h ⊢
  cases hs : s.err <;> cases c <;> simp_all [ErrorCode.code]

/-- A legal write to `STATUS` either clears the error or does nothing. -/
theorem State.writeStatus_cases (s : State) (v : Word) :
    (v.getLsbD 1 = true ∧ s.writeStatus v = s.clearError) ∨ (v.getLsbD 1 = false ∧ s.writeStatus v = s) := by
  unfold State.writeStatus
  cases v.getLsbD 1 <;> simp

/-- `statusLegal` reads the error fields alone. -/
theorem State.statusLegal_congr {s t : State} (h1 : t.err = s.err) (h2 : t.ecode = s.ecode) :
    t.statusLegal = s.statusLegal := by
  simp [State.statusLegal, h1, h2]

/-! ### What is due -/

theorem State.due_eq_some {s : State} {i : Instr} : s.due = some i ↔ s.delay = 0 ∧ s.pending = some i := by
  simp [State.due]

theorem State.due_eq_none {s : State} : s.due = none ↔ s.delay ≠ 0 ∨ s.pending = none := by
  by_cases h : s.delay = 0 <;> simp [State.due, h]

/-! ### Whose turn it is -/

theorem State.turn_eq_reset {s : State} : s.turn = .reset ↔ s.resetDue = true := by
  unfold State.turn
  cases s.resetDue <;> cases s.due <;> simp

theorem State.turn_eq_unit {s : State} {i : Instr} : s.turn = .unit i ↔ s.resetDue = false ∧ s.due = some i := by
  unfold State.turn
  cases s.resetDue <;> cases s.due <;> simp

theorem State.turn_eq_host {s : State} : s.turn = .host ↔ s.resetDue = false ∧ s.due = none := by
  unfold State.turn
  cases s.resetDue <;> cases s.due <;> simp

/-- An idle unit leaves the turn to the host unless reset is asserted. -/
theorem State.turn_of_idle {s : State} (h : s.pending = none) (hr : s.resetDue = false) : s.turn = .host :=
  State.turn_eq_host.mpr ⟨hr, State.due_eq_none.mpr (.inr h)⟩

theorem State.resetDue_eq_true {s : State} : s.resetDue = true ↔ s.resets.head? = some 0 := by
  simp [State.resetDue]

theorem State.resetDue_eq_false {s : State} : s.resetDue = false ↔ s.resets.head? ≠ some 0 := by
  simp [State.resetDue]

/-- A reset put off by one step is, one step later, where it would have been. -/
@[simp] theorem countDown_postpone (rs : List Nat) : countDown (postpone rs) = countDown rs := by
  unfold postpone
  split <;> rfl

/-- A reset put off is not asserted now. -/
@[simp] theorem postpone_head (rs : List Nat) : (postpone rs).head? ≠ some 0 := by
  unfold postpone
  split
  · simp
  · rename_i h
    cases rs with
    | nil => simp
    | cons n rest =>
      intro hn
      exact h rest (by simpa using hn)

/-- The next reset comes one step nearer. -/
theorem countDown_head (rs : List Nat) : (countDown rs).head? = rs.head?.map (· - 1) := by
  cases rs <;> rfl

/-! ### Lanes -/

@[simp] theorem eachLane_get {α : Type} (f : Lane → α) (l : Lane) : (eachLane f)[l] = f l := by
  fin_cases l <;> rfl

@[simp] theorem eachLane_getElem {α : Type} (f : Lane → α) (k : Nat) (h : k < 4) : (eachLane f)[k] = f ⟨k, h⟩ :=
  eachLane_get f ⟨k, h⟩

/-- Setting one lane leaves the others. -/
theorem set_lane_other {α : Type} (v : Vector α 4) (l k : Lane) (x : α) (h : k ≠ l) : (v.set l.val x)[k] = v[k] := by
  have hlk : l.val ≠ k.val := fun e => h (Fin.ext e.symm)
  simp [hlk]

/-- Two vectors of four lanes are equal when every lane is. -/
theorem lanes_ext {α : Type} {v w : Vector α 4} (h : ∀ k : Lane, v[k] = w[k]) : v = w :=
  Vector.ext fun k hk => h ⟨k, hk⟩

end Sys2Proof.Machine
end

