-- ==== Sys2Proof/Laws/Operands.lean ====
section
/-!
SUPPORT. What the operand forms do: the window offsets and their decode, what a bad access is, and that a register write
sets that register and no other.
-/

namespace Sys2Proof.Machine

/-- Every register's offset lies in the window. -/
theorem Reg.offset_lt (r : Reg) : r.offset < 0x200 := by
  cases r <;> simp only [Reg.offset] <;> omega

/-- Every register's offset is aligned. -/
theorem Reg.offset_aligned (r : Reg) : r.offset % 4 = 0 := by
  cases r <;> simp only [Reg.offset] <;> omega

theorem decodeOff_msg : ∀ (l : Lane) (i : Fin 16), decodeOff (BitVec.ofNat 9 (Reg.msg l i).offset) = some (.msg l i) := by
  decide +kernel

theorem decodeOff_dig : ∀ (l : Lane) (j : Fin 5), decodeOff (BitVec.ofNat 9 (Reg.dig l j).offset) = some (.dig l j) := by
  decide +kernel

theorem decodeOff_seed : ∀ l : Lane, decodeOff (BitVec.ofNat 9 (Reg.seed l).offset) = some (.seed l) := by
  decide +kernel

/-- The offset decode inverts the register map (R51, R52). -/
theorem decodeOff_offset (r : Reg) : decodeOff (BitVec.ofNat 9 r.offset) = some r := by
  cases r with
  | msg l i => exact decodeOff_msg l i
  | dig l j => exact decodeOff_dig l j
  | seed l => exact decodeOff_seed l
  | lcgLo => decide +kernel
  | lcgHi => decide +kernel
  | cmd => decide +kernel
  | status => decide +kernel

/-- A 4-byte access at a register's offset reaches that register. -/
@[simp] theorem accessTarget_offset (r : Reg) : accessTarget (BitVec.ofNat 9 r.offset) 4 = some r := by
  unfold accessTarget
  have h : (BitVec.ofNat 9 r.offset).extractLsb' 0 2 = 0 := by
    apply BitVec.eq_of_toNat_eq
    have h1 := r.offset_aligned
    have h2 := r.offset_lt
    simp [BitVec.extractLsb'_toNat]
    omega
  simp [h, decodeOff_offset]

@[simp] theorem accessTarget_cmd : accessTarget 448#9 4 = some .cmd := accessTarget_offset .cmd

@[simp] theorem accessTarget_status : accessTarget 452#9 4 = some .status := accessTarget_offset .status

/-- Two registers do not share an offset. -/
theorem Reg.offset_inj {r k : Reg} (h : BitVec.ofNat 9 r.offset = BitVec.ofNat 9 k.offset) : r = k := by
  have hr := decodeOff_offset r
  rw [h, decodeOff_offset k] at hr
  exact (Option.some.inj hr).symm

/-- An access reaches no register exactly where it is a bus access error by the register map (R182, R51). -/
theorem accessTarget_eq_none (off : BitVec 9) (n : Nat) : accessTarget off n = none ↔ BadAccess off n := by
  by_cases h : n = 4
  · subst h
    revert off
    decide +kernel
  · simp [BadAccess, h, accessTarget]

/-- An access that reaches a register is of 4 bytes at that register's offset. -/
theorem accessTarget_eq_some {off : BitVec 9} {n : Nat} {r : Reg} (h : accessTarget off n = some r) :
    n = 4 ∧ off = BitVec.ofNat 9 r.offset := by
  unfold accessTarget at h
  split_ifs at h with hc
  refine ⟨hc.1, ?_⟩
  have key : ∀ o : BitVec 9, o.extractLsb' 0 2 = 0 →
      (decodeOff o).all (fun r => decide (o = BitVec.ofNat 9 r.offset)) = true := by decide +kernel
  have := key off hc.2
  rw [h] at this
  simpa using this

@[simp] theorem windowOffset_offset (r : Reg) : windowOffset r.offset = some (BitVec.ofNat 9 r.offset) := by
  simp [windowOffset, r.offset_lt]

/-- A number that is a window offset is the offset itself. -/
theorem windowOffset_eq_some {off : Nat} {o : BitVec 9} (h : windowOffset off = some o) : o.toNat = off := by
  unfold windowOffset at h
  split_ifs at h with hc
  rw [← Option.some.inj h, BitVec.toNat_ofNat]
  omega

theorem addressOffset_base (base off : Nat) : addressOffset base (base + off) = windowOffset off := by
  simp [addressOffset]

/-- A register written reads as written. -/
theorem State.readReg_writeReg_same (s : State) (r : Reg) (v : Word) (h : r.isData = true) :
    (s.writeReg r v).readReg r = v := by
  cases r <;> simp_all [State.writeReg, State.readReg, Reg.isData]

/-- A register write leaves every other register as it was. -/
theorem State.readReg_writeReg_other (s : State) (r k : Reg) (v : Word) (h : k ≠ r) :
    (s.writeReg r v).readReg k = s.readReg k := by
  cases r with
  | msg l i =>
    cases k with
    | msg l' i' =>
      by_cases hl : l.val = l'.val
      · obtain rfl := Fin.ext hl
        have hi : i.val ≠ i'.val := fun hi => h (by rw [Fin.ext hi])
        simp [State.writeReg, State.readReg, hi]
      · simp [State.writeReg, State.readReg, hl]
    | _ => rfl
  | dig l j =>
    cases k with
    | dig l' j' =>
      by_cases hl : l.val = l'.val
      · obtain rfl := Fin.ext hl
        have hj : j.val ≠ j'.val := fun hj => h (by rw [Fin.ext hj])
        simp [State.writeReg, State.readReg, hj]
      · simp [State.writeReg, State.readReg, hl]
    | _ => rfl
  | seed l =>
    cases k with
    | seed l' =>
      have hl : l.val ≠ l'.val := fun hl => h (by rw [Fin.ext hl])
      simp [State.writeReg, State.readReg, hl]
    | _ => rfl
  | lcgLo => cases k <;> first | rfl | exact absurd rfl h
  | lcgHi => cases k <;> first | rfl | exact absurd rfl h
  | cmd => rfl
  | status => rfl

/-- A register write changes no control state and nothing of the host's side. -/
theorem State.writeReg_frame (s : State) (r : Reg) (v : Word) :
    (s.writeReg r v).busy = s.busy ∧ (s.writeReg r v).err = s.err ∧ (s.writeReg r v).ecode = s.ecode ∧
      (s.writeReg r v).pending = s.pending ∧ (s.writeReg r v).inputs = s.inputs ∧ (s.writeReg r v).vals = s.vals ∧
      (s.writeReg r v).delay = s.delay ∧ (s.writeReg r v).draws = s.draws ∧ (s.writeReg r v).resets = s.resets ∧
      (s.writeReg r v).cmdLast = s.cmdLast := by
  cases r <;> exact ⟨rfl, rfl, rfl, rfl, rfl, rfl, rfl, rfl, rfl, rfl⟩

end Sys2Proof.Machine
end

