-- ==== Sys2Proof/Laws/Access.lean ====
section
/-!
SUPPORT. Everything a host access, a host line and an event can do, said once: the case lemmas the later proofs cite
instead of unfolding `memRead`, `memWrite` and `performEvent`.
-/

namespace Sys2Proof.Machine

/-- Everything a read can do (R160). -/
theorem memRead_cases (off : BitVec 9) (n : Nat) (s : State) :
    (accessTarget off n = none ∧ memRead off n s = (0, s.raiseError .badAccess)) ∨
    (∃ r, accessTarget off n = some r ∧ s.busy = true ∧ r.drawnWhenBusy = true ∧
      memRead off n s = (Config.busyRead s.draws, s.bumpDraws)) ∨
    (∃ r, accessTarget off n = some r ∧ (s.busy = false ∨ r.drawnWhenBusy = false) ∧
      memRead off n s = (s.readReg r, s)) := by
  unfold memRead
  cases h : accessTarget off n with
  | none => simp
  | some r =>
    by_cases hb : s.busy = true ∧ r.drawnWhenBusy = true
    · exact .inr (.inl ⟨r, rfl, hb.1, hb.2, by simp [hb]⟩)
    · refine .inr (.inr ⟨r, rfl, ?_, ?_⟩)
      · cases hs : s.busy <;> simp_all
      · cases hs : s.busy <;> simp_all

/-- What a read never changes: the data registers, the pending command and everything else but the error fields and the
count of free values. -/
theorem memRead_frame (off : BitVec 9) (n : Nat) (s : State) :
    (memRead off n s).2 = s ∨ (memRead off n s).2 = s.bumpDraws ∨ (memRead off n s).2 = s.raiseError .badAccess := by
  obtain ⟨-, h⟩ | ⟨r, -, -, -, h⟩ | ⟨r, -, -, h⟩ := memRead_cases off n s <;> simp [h]

/-- Everything a write can do (R161). -/
theorem memWrite_cases (off : BitVec 9) (n : Nat) (v : Word) (s : State) :
    (accessTarget off n = none ∧ memWrite off n v s = s.raiseError .badAccess) ∨
    (accessTarget off n = some .status ∧ memWrite off n v s = s.writeStatus v) ∨
    (∃ r, accessTarget off n = some r ∧ r ≠ .status ∧ s.busy = true ∧ memWrite off n v s = s.raiseError .busyWrite) ∨
    (∃ why, accessTarget off n = some .cmd ∧ s.busy = false ∧ decode v = .illegal why ∧
      memWrite off n v s = s.raiseError .illegalCmd) ∨
    (∃ i, accessTarget off n = some .cmd ∧ s.busy = false ∧ decode v = .command i ∧ memWrite off n v s = s.accept i) ∨
    (∃ r, accessTarget off n = some r ∧ r.isData = true ∧ s.busy = false ∧ memWrite off n v s = s.writeReg r v) := by
  unfold memWrite
  cases h : accessTarget off n with
  | none => simp
  | some r =>
    cases hb : s.busy with
    | true => cases r <;> simp
    | false =>
      cases r with
      | cmd =>
        cases hd : decode v with
        | command i => simp [writeCmd, hd]
        | illegal why => simp [writeCmd, hd]
      | _ => simp [Reg.isData]

/-- What a write never changes. -/
theorem memWrite_frame (off : BitVec 9) (n : Nat) (v : Word) (s : State) :
    (memWrite off n v s).inputs = s.inputs ∧ (memWrite off n v s).vals = s.vals ∧
      (memWrite off n v s).resets = s.resets := by
  obtain ⟨-, h⟩ | ⟨-, h⟩ | ⟨r, -, -, -, h⟩ | ⟨why, -, -, -, h⟩ | ⟨i, -, -, -, h⟩ | ⟨r, -, -, -, h⟩ :=
    memWrite_cases off n v s
  · simp [h]
  · obtain ⟨-, h'⟩ | ⟨-, h'⟩ := s.writeStatus_cases v <;> simp [h, h']
  · simp [h]
  · simp [h]
  · simp [h]
  · simp [h, s.writeReg_frame r v]

/-- What the host does with a word it has read. -/
inductive ReadUse where
  /-- It becomes host value `dst`. -/
  | keep (dst : Nat)
  /-- It is tested by the `poll` line. -/
  | test (off : Nat) (mask val : Word)

/-- The state after the use of a word read. -/
def ReadUse.run : ReadUse → Word → State → State
  | .keep dst, t, s => s.setVal dst t
  | .test off mask val, t, s => pollAgain off mask val t s

/-- An event that answers a next state is a write in the window or a read in it. -/
theorem performEvent_cases {e : Event} {s t : State} (h : performEvent e s = .next t) :
    (∃ off n v, (e = .line (.wr (BitVec.toNat off) v) ∧ n = 4 ∨
        ∃ addr, e = .write addr n v ∧ addressOffset Config.base addr = some off) ∧
      t = memWrite off n v s) ∨
    (∃ off n use, (∀ o mask val, use = .test o mask val → e = .line (.poll o mask val) ∧ o < 0x200) ∧
      t = ReadUse.run use (memRead off n s).1 (memRead off n s).2) := by
  cases e with
  | line hl =>
    cases hl with
    | wr off v =>
      simp only [performEvent, performLine, hostWrite] at h
      split at h
      · cases h
      · rename_i o ho
        refine .inl ⟨o, 4, v, .inl ⟨by rw [windowOffset_eq_some ho], rfl⟩, ?_⟩
        cases h
        rfl
    | rd off dst =>
      simp only [performEvent, performLine, hostRead] at h
      split at h
      · cases h
      · rename_i o ho
        refine .inr ⟨o, 4, .keep dst, by simp, ?_⟩
        cases h
        rfl
    | poll off mask val =>
      simp only [performEvent, performLine, hostRead] at h
      split at h
      · cases h
      · rename_i o ho
        refine .inr ⟨o, 4, .test off mask val, ?_, ?_⟩
        · rintro _ _ _ ⟨rfl, rfl, rfl⟩
          refine ⟨rfl, ?_⟩
          unfold windowOffset at ho
          split_ifs at ho with hc
          exact hc
        · cases h
          rfl
  | read addr n dst =>
    simp only [performEvent, hostRead] at h
    split at h
    · cases h
    · rename_i o ho
      refine .inr ⟨o, n, .keep dst, by simp, ?_⟩
      cases h
      rfl
  | write addr n v =>
    simp only [performEvent, hostWrite] at h
    split at h
    · cases h
    · rename_i o ho
      refine .inl ⟨o, n, v, .inr ⟨addr, rfl, ho⟩, ?_⟩
      cases h
      rfl

/-- The use of a word read changes host values or puts its own line back, and nothing else. -/
theorem ReadUse.run_cases (use : ReadUse) (w : Word) (s : State) :
    (∃ n, use.run w s = s.setVal n w) ∨ use.run w s = s ∨
      (∃ o mask val, use = .test o mask val ∧ use.run w s = s.pushInput (.line (.poll o mask val))) := by
  cases use with
  | keep dst => exact .inl ⟨dst, rfl⟩
  | test o mask val =>
    by_cases hc : w &&& mask = val
    · exact .inr (.inl (by simp [ReadUse.run, pollAgain, hc]))
    · exact .inr (.inr ⟨o, mask, val, rfl, by simp [ReadUse.run, pollAgain, hc]⟩)

end Sys2Proof.Machine
end

