-- ==== Sys2Proof/Laws/Decode.lean ====
section
/-!
SUPPORT. The fields of an encoded command word (spec/30_encoding.md R71): each reads back what `formatC` was given.
-/

namespace Sys2Proof

theorem opField_formatC : ∀ (op : BitVec 4) (l : Lane), opField (formatC op l) = op := by decide +kernel

theorem laneField_formatC : ∀ (op : BitVec 4) (l : Lane), laneField (formatC op l) = l := by decide +kernel

theorem rsvField_formatC : ∀ (op : BitVec 4) (l : Lane), rsvField (formatC op l) = 0 := by decide +kernel

/-- Field `RSV` is 0 exactly where the word is below 64. -/
theorem rsvField_eq_zero (c : Word) : rsvField c = 0 ↔ c.toNat < 64 := by
  have hc := c.isLt
  have h : (rsvField c).toNat = c.toNat / 64 := by
    simp only [rsvField, BitVec.extractLsb'_toNat, Nat.shiftRight_eq_div_pow]
    omega
  constructor
  · intro h0
    rw [h0, show (0 : BitVec 26).toNat = 0 from rfl] at h
    omega
  · intro hlt
    apply BitVec.eq_of_toNat_eq
    rw [h, show (0 : BitVec 26).toNat = 0 from rfl]
    omega

/-- A word with `RSV` not 0 is illegal. -/
theorem decode_of_rsv {c : Word} (h : rsvField c ≠ 0) : decode c = .illegal .reservedBits := by
  unfold decode
  rw [if_pos h]

end Sys2Proof
end

