-- ==== Sys2Proof/Laws/Exec.lean ====
section
/-!
SUPPORT. What each command does at its completion step, said once: `exec` answers exactly this next state. Every command
ends with `complete` (spec/10_state.md R34).
-/

namespace Sys2Proof.Machine

theorem exec_digest (l : Lane) (s : State) :
    exec (.digest l) s = .next (s.setDig l (compress s.msg[l])).complete := rfl

theorem exec_digest4 (s : State) :
    exec .digest4 s = .next (s.setDigs (eachLane fun l => compress s.msg[l])).complete := rfl

theorem exec_seed (l : Lane) (s : State) : exec (.seed l) s = .next (s.setSeed l (seedOf s.dig[l])).complete := rfl

theorem exec_seed4 (s : State) : exec .seed4 s = .next (s.setSeeds (eachLane fun l => seedOf s.dig[l])).complete := rfl

theorem exec_dseed (l : Lane) (s : State) :
    exec (.dseed l) s =
      .next ((s.setDig l (compress s.msg[l])).setSeed l (seedOf (compress s.msg[l]))).complete := rfl

theorem exec_dseed4 (s : State) :
    exec .dseed4 s =
      .next ((s.setDigs (eachLane fun l => compress s.msg[l])).setSeeds
        (eachLane fun l => seedOf (compress s.msg[l]))).complete := rfl

theorem exec_lcg (s : State) : exec .lcg s = .next (s.setLcg (lcgStep s.lcg)).complete := rfl

/-- Everything a command leaves alone whatever it computes: it always answers a next state, idle, with the message
registers, the error fields, the host's side and the model's counters unchanged. -/
theorem exec_next (i : Instr) (s : State) :
    ∃ t, exec i s = .next t ∧ t.pending = none ∧ t.busy = false ∧ t.msg = s.msg ∧ t.err = s.err ∧
      t.ecode = s.ecode ∧ t.inputs = s.inputs ∧ t.resets = s.resets ∧ t.vals = s.vals ∧ t.cmdLast = s.cmdLast ∧
      t.delay = s.delay ∧ t.draws = s.draws := by
  cases i <;> exact ⟨_, rfl, rfl, rfl, rfl, rfl, rfl, rfl, rfl, rfl, rfl, rfl, rfl⟩

end Sys2Proof.Machine
end

