-- ==== Sys2Proof/Laws/PerInstr.lean ====
section
/-!
SUPPORT. The per-command family `EncodedFields`: a command is well formed, and its word has a legal `OP`, its lane
operand (or 0) in `LANE`, and `RSV = 0` (spec/30_encoding.md R71 to R73).
-/

namespace Sys2Proof.Laws.EncodedFields

open Sys2Proof

/-- What the family says of a command. -/
def Statement (i : Instr) : Prop :=
  i.WellFormed = true ∧ 1 ≤ (opField (encode i)).toNat ∧ (opField (encode i)).toNat ≤ 7 ∧
    laneField (encode i) = i.lane?.getD 0 ∧ rsvField (encode i) = 0

/-- The family's one proof: a word of format C with a legal operation. -/
theorem of_formatC {i : Instr} {op : BitVec 4} {l : Lane} (he : encode i = formatC op l) (hw : i.WellFormed = true)
    (h1 : 1 ≤ op.toNat) (h7 : op.toNat ≤ 7) (hl : l = i.lane?.getD 0) : Statement i := by
  refine ⟨hw, ?_, ?_, ?_, ?_⟩
  · rw [he, opField_formatC]; exact h1
  · rw [he, opField_formatC]; exact h7
  · rw [he, laneField_formatC]; exact hl
  · rw [he, rsvField_formatC]

theorem digest (l : Lane) : Statement (.digest l) :=
  of_formatC rfl (by simp [Instr.WellFormed, Instr.lane?]) (by decide) (by decide) rfl

theorem digest4 : Statement .digest4 := of_formatC rfl rfl (by decide) (by decide) rfl

theorem seed (l : Lane) : Statement (.seed l) :=
  of_formatC rfl (by simp [Instr.WellFormed, Instr.lane?]) (by decide) (by decide) rfl

theorem seed4 : Statement .seed4 := of_formatC rfl rfl (by decide) (by decide) rfl

theorem dseed (l : Lane) : Statement (.dseed l) :=
  of_formatC rfl (by simp [Instr.WellFormed, Instr.lane?]) (by decide) (by decide) rfl

theorem dseed4 : Statement .dseed4 := of_formatC rfl rfl (by decide) (by decide) rfl

theorem lcg : Statement .lcg := of_formatC rfl rfl (by decide) (by decide) rfl

end Sys2Proof.Laws.EncodedFields
end

