-- ==== Sys2Proof/Laws/Step.lean ====
section
/-!
SUPPORT. Everything a step can do, said once.
-/

namespace Sys2Proof.Machine

theorem step_of_reset {s : State} (h : s.resetDue = true) : step s = .next s.resetUnit := by
  simp [step, State.turn_eq_reset.mpr h]

theorem step_of_unit {s : State} {i : Instr} (hr : s.resetDue = false) (h : s.due = some i) :
    step s = exec i s.passStep := by
  simp [step, State.turn_eq_unit.mpr ⟨hr, h⟩]

theorem step_of_host {s : State} (h : s.turn = .host) : step s = advance s.passStep := by
  simp [step, h]

theorem step_of_host_nil {s : State} (h : s.turn = .host) (hi : s.inputs = []) : step s = .next s.passStep.tick := by
  simp [step_of_host h, advance, hi]

theorem step_of_host_cons {s : State} {e : Event} {rest : List Event} (h : s.turn = .host)
    (hi : s.inputs = e :: rest) : step s = performEvent e (s.passStep.takeEvent rest) := by
  simp [step_of_host h, advance, hi]

/-- A step that answers a next state is the reset asserted, the completion of the command due, a cycle without an access,
or the host's next event. -/
theorem step_cases {s t : State} (h : step s = .next t) :
    (s.resetDue = true ∧ t = s.resetUnit) ∨
    (∃ i, s.turn = .unit i ∧ exec i s.passStep = .next t) ∨
    (s.turn = .host ∧ s.inputs = [] ∧ t = s.passStep.tick) ∨
    (∃ e rest, s.turn = .host ∧ s.inputs = e :: rest ∧ performEvent e (s.passStep.takeEvent rest) = .next t) := by
  cases ht : s.turn with
  | reset =>
    have hr := State.turn_eq_reset.mp ht
    rw [step_of_reset hr] at h
    cases h
    exact .inl ⟨hr, rfl⟩
  | unit i =>
    have hu := State.turn_eq_unit.mp ht
    exact .inr (.inl ⟨i, rfl, by rwa [step_of_unit hu.1 hu.2] at h⟩)
  | host =>
    cases hi : s.inputs with
    | nil =>
      rw [step_of_host_nil ht hi] at h
      cases h
      exact .inr (.inr (.inl ⟨rfl, rfl, rfl⟩))
    | cons e rest => exact .inr (.inr (.inr ⟨e, rest, rfl, rfl, by rwa [step_of_host_cons ht hi] at h⟩))

/-- A run of no steps. -/
theorem core_run_zero (s : State) : Sys2Proof.core.run 0 s = .next s := rfl

/-- A run that begins with a step to a next state. -/
theorem core_run_of_next {s t : State} (h : step s = .next t) (k : Nat) :
    Sys2Proof.core.run (k + 1) s = Sys2Proof.core.run k t := by
  have hs : Sys2Proof.core.step s = .next t := h
  simp only [Host.Core.run, hs]

end Sys2Proof.Machine
end

