-- ==== Sys2Proof/Tests/Slice0.lean ====
section
/-!
SUPPORT. The model's own tests: what WellFormed refuses, words written out from the spec's encoding, the vectors of
spec/95_test_vectors.md, single steps on small states, and a witness for the hypotheses of each statement. Expected
values stand in the spec; each test names the vector or rule.
-/

namespace Sys2Proof.Tests

open Sys2Proof Sys2Proof.Machine

/-! ### Well-formedness -/

/-- The one check of a host line refuses the first offset past the window, for each kind of line (R50). -/
theorem test_wellformed_refuses_outside :
    (HostLine.wr 0x200 0).WellFormed = false ∧ (HostLine.rd 0x200 0).WellFormed = false ∧
      (HostLine.poll 0x200 1 0).WellFormed = false := by decide

theorem test_wellformed_accepts_last_offset : (HostLine.rd 0x1FF 0).WellFormed = true := by decide

theorem test_wellformed_commands : (Instr.digest 3).WellFormed = true ∧ Instr.lcg.WellFormed = true := by decide

/-! ### Decoding: words written bit by bit from R71 (RSV 26 bits, LANE 2 bits, OP 4 bits) -/

theorem test_decode_digest3 : decode 0b00000000000000000000000000110001 = .command (.digest 3) := by decide
theorem test_decode_digest4 : decode 0b00000000000000000000000000000010 = .command .digest4 := by decide
theorem test_decode_seed1 : decode 0b00000000000000000000000000010011 = .command (.seed 1) := by decide
theorem test_decode_seed4 : decode 0b00000000000000000000000000000100 = .command .seed4 := by decide
theorem test_decode_dseed2 : decode 0b00000000000000000000000000100101 = .command (.dseed 2) := by decide
theorem test_decode_dseed4 : decode 0b00000000000000000000000000000110 = .command .dseed4 := by decide
theorem test_decode_lcg : decode 0b00000000000000000000000000000111 = .command .lcg := by decide

/-- The illegal rows of 95_test_vectors.md 2.5, with the reason each row gives. -/
theorem test_decode_illegal :
    decode 0x00000000 = .illegal .noOperation ∧ decode 0x00000008 = .illegal .noOperation ∧
    decode 0x0000000F = .illegal .noOperation ∧ decode 0x00000012 = .illegal .laneNotZero ∧
    decode 0x00000017 = .illegal .laneNotZero ∧ decode 0x00000040 = .illegal .reservedBits ∧
    decode 0x80000001 = .illegal .reservedBits := by decide

theorem test_encode_words : encode (.dseed 2) = 0x25 ∧ encode (.digest 1) = 0x11 ∧ encode .lcg = 0x07 := by decide

theorem test_asm_text : asmText (.digest 2) = "DIGEST 2" ∧ asmText .dseed4 = "DSEED4" := by decide

theorem test_table_word : decodeTableWord 32 0x33 = some (.seed 3) ∧ decodeTableWord 32 0x34 = none := by decide

/-! ### Helpers -/

/-- Reset with a command pending, `d` accesses before it completes, and events to come. -/
def busyState (i : Instr) (d : Nat) (es : List Event) : State :=
  { State.reset with pending := some i, busy := true, delay := d, inputs := es }

/-- Reset with events to come. -/
def idleState (es : List Event) : State := { State.reset with inputs := es }

/-- A state with the assertions of reset to come. -/
def withResets (rs : List Nat) (s : State) : State := { s with resets := rs }

/-- Reset with an error recorded. -/
def errorState (code : BitVec 4) (es : List Event) : State :=
  { State.reset with err := true, ecode := code, inputs := es }

/-- The block of the message "abc" (V1). -/
def abcBlock : Block := #v[0x61626380, 0, 0, 0, 0, 0, 0, 0, 0, 0, 0, 0, 0, 0, 0, 0x00000018]

/-- Reset with a block in one lane. -/
def blockState (l : Lane) (b : Block) : State := { State.reset with msg := State.reset.msg.set l.val b }

/-! ### Compression (95_test_vectors.md 2.1, 2.2) -/

theorem test_compress_V1 :
    compress abcBlock = #v[0xA9993E36, 0x4706816A, 0xBA3E2571, 0x7850C26C, 0x9CD0D89D] := by decide +kernel

theorem test_compress_V2 :
    compress (Vector.replicate 16 0) = #v[0x92B404E5, 0x56588CED, 0x6C1ACD4E, 0xBF053F68, 0x09F73A93] := by
  decide +kernel

theorem test_compress_V3 :
    compress (Vector.replicate 16 0xFFFFFFFF) = #v[0xBAFBC2C8, 0x7C333226, 0x03F38E06, 0xC3E0F79C, 0x1F1B1475] := by
  decide +kernel

theorem test_compress_V8 :
    compress #v[0, 0, 0, 0, 0, 0, 0, 0, 0, 0, 0, 0, 0, 0x80000000, 0, 0x000001A0] =
      #v[0x2F1050AD, 0xF64F3329, 0x8FF0CE42, 0x3EB86D47, 0x28441B21] := by decide +kernel

/-- V1 and V5 as the published SHA-1 digests of "abc" and of the empty message (G10). -/
theorem test_sha1_published :
    sha1OneBlock [0x61, 0x62, 0x63] = #v[0xA9993E36, 0x4706816A, 0xBA3E2571, 0x7850C26C, 0x9CD0D89D] ∧
    sha1OneBlock [] = #v[0xDA39A3EE, 0x5E6B4B0D, 0x3255BFEF, 0x95601890, 0xAFD80709] := by decide +kernel

/-- W16, W17, W18, W19 and W79 of V1. -/
theorem test_schedule_V1 :
    [16, 17, 18, 19, 79].map (fun t => (schedule abcBlock).getD t 0) =
      [0xC2C4C700, 0x00000000, 0x00000030, 0x85898E01, 0x822E0879] := by decide +kernel

/-- The chaining variables of V1 after rounds 0 and 59. -/
theorem test_rounds_V1 :
    runRounds 0 ((schedule abcBlock).take 1) ivChain =
      ⟨0x0116FC33, 0x67452301, 0x7BF36AE2, 0x98BADCFE, 0x10325476⟩ ∧
    runRounds 0 ((schedule abcBlock).take 60) ivChain =
      ⟨0x3F52DE5A, 0x09D785FD, 0x3498BFD4, 0xF211824F, 0xD79915AB⟩ := by decide +kernel

/-- R110's example, on lane 2: the digest lands in lane 2 alone. -/
theorem test_exec_digest :
    ((nextOf (exec (.digest 2) (blockState 2 abcBlock))).map fun t => (t.dig[2][0], t.dig[2][4], t.dig[1][0])) =
      some (0xA9993E36, 0x9CD0D89D, 0) := by decide +kernel

/-- V6 in part: each lane its own block. -/
theorem test_exec_digest4 :
    ((nextOf (exec .digest4 (blockState 3 abcBlock))).map fun t => (t.dig[3][1], t.dig[0][0], t.busy)) =
      some (0x4706816A, 0x92B404E5, false) := by decide +kernel

/-! ### Seed derivation and LCG (95_test_vectors.md 2.3, 2.4), with the reference constants as arguments -/

/-- S2 to S5 and S7: all ones, the order of the halves, the place of the top bit of `h0`. -/
theorem test_seed_vectors :
    seedFromDigestWith 0x5D588B656C078965 0x269EC3 0xFFFFFFFF 0xFFFFFFFF = 0xA2A7749A ∧
    seedFromDigestWith 0x5D588B656C078965 0x269EC3 0x12345678 0x9ABCDEF0 = 0x46450CC4 ∧
    seedFromDigestWith 0x5D588B656C078965 0x269EC3 0x00000001 0x00000000 = 0x656C0789 ∧
    seedFromDigestWith 0x5D588B656C078965 0x269EC3 0x00000000 0x00000001 = 0x65000000 ∧
    seedFromDigestWith 0x5D588B656C078965 0x269EC3 0x80000000 0x00000000 = 0xAC45B2B6 := by decide

/-- S3's and S7's 64-bit values. -/
theorem test_seed_input :
    seedInput 0x12345678 0x9ABCDEF0 = 0xF0DEBC9A78563412 ∧ seedInput 0x80000000 0 = 0x80 := by decide

/-- L2, L4 and L5. -/
theorem test_lcg_vectors :
    lcgStepWith 0x5D588B656C078965 0x269EC3 0x1 = 0x5D588B656C2E2828 ∧
    lcgStepWith 0x5D588B656C078965 0x269EC3 0x269EC3 = 0x7188D00C55AE9CB2 ∧
    lcgStepWith 0x5D588B656C078965 0x269EC3 0x8000000000000000 = 0x8000000000269EC3 := by decide

/-- `SEED 1` reads `DIG[1]` (R140), whatever the constants. -/
theorem test_exec_seed (s : State) :
    (nextOf (exec (.seed 1) s)).map (fun t => (t.seed[1], t.dig)) = some (seedFromDigest s.dig[1][0] s.dig[1][1], s.dig) := by
  simp [exec_seed, nextOf, seedOf]

theorem test_exec_seed4 (s : State) :
    (nextOf (exec .seed4 s)).map (fun t => (t.seed[0], t.seed[3])) =
      some (seedFromDigest s.dig[0][0] s.dig[0][1], seedFromDigest s.dig[3][0] s.dig[3][1]) := by
  simp [exec_seed4, nextOf, seedOf, eachLane]

/-- R142: the seed is of the new digest, not of the old `DIG` (S6's digest words). -/
theorem test_exec_dseed :
    (nextOf (exec (.dseed 0) (blockState 0 abcBlock))).map (fun t => (t.dig[0][0], t.seed[0])) =
      some (0xA9993E36, seedFromDigest 0xA9993E36 0x4706816A) := by
  have h : compress (blockState 0 abcBlock).msg[0] =
      #v[0xA9993E36, 0x4706816A, 0xBA3E2571, 0x7850C26C, 0x9CD0D89D] := test_compress_V1
  simp [exec_dseed, nextOf, seedOf, h]

theorem test_exec_dseed4 :
    (nextOf (exec .dseed4 (blockState 3 abcBlock))).map (fun t => (t.dig[3][0], t.seed[3])) =
      some (0xA9993E36, seedFromDigest 0xA9993E36 0x4706816A) := by
  have h : compress (blockState 3 abcBlock).msg[3] =
      #v[0xA9993E36, 0x4706816A, 0xBA3E2571, 0x7850C26C, 0x9CD0D89D] := test_compress_V1
  simp [exec_dseed4, nextOf, seedOf, eachLane, h]

/-- R144: from `LCG = 0` the step leaves `LCG_A`, split over the halves. -/
theorem test_exec_lcg :
    (nextOf (exec .lcg State.reset)).map (fun t => (t.lcgHi, t.lcgLo)) =
      some (Config.lcgA.extractLsb' 32 32, Config.lcgA.extractLsb' 0 32) := by
  simp [exec_lcg, nextOf, State.lcg, State.reset, lcgStep, lcgStepWith]

/-! ### Error and access rows E1 to E15 (95_test_vectors.md 2.6) -/

theorem test_E1_illegal_command : (memWrite 0x1C0 4 0x00000000 State.reset).statusWord = 0x12 := by decide
theorem test_E2_illegal_lane : (memWrite 0x1C0 4 0x00000012 State.reset).statusWord = 0x12 := by decide
theorem test_E3_busy_before_illegal : (memWrite 0x1C0 4 0x0 (busyState .lcg 5 [])).statusWord = 0x23 := by decide
theorem test_E4_busy_write : (memWrite 0x000 4 0x1 (busyState .lcg 5 [])).statusWord = 0x23 := by decide
theorem test_E5_two_byte_write : (memWrite 0x1C0 2 0x1 State.reset).statusWord = 0x32 := by decide
theorem test_E6_misaligned_read : (memRead 0x002 4 State.reset).2.statusWord = 0x32 := by decide
theorem test_E7_reserved_digest_slot :
    (memRead 0x114 4 State.reset).1 = 0 ∧ (memRead 0x114 4 State.reset).2.statusWord = 0x32 := by decide
theorem test_E8_reserved_read : (memRead 0x198 4 State.reset).2.statusWord = 0x32 := by decide
theorem test_E9_read_cmd : memRead 0x1C0 4 State.reset = (0, State.reset) := by decide
theorem test_E10_first_code_kept : (memRead 0x114 4 (errorState 1 [])).2.statusWord = 0x12 := by decide
theorem test_E11_clear_while_busy :
    (memWrite 0x1C4 4 0xFFFFFFFF { busyState .lcg 5 [] with err := true, ecode := 2 }).statusWord = 0x01 := by decide
theorem test_E12_bit_one_clear : (memWrite 0x1C4 4 0x00000001 (errorState 1 [])).statusWord = 0x12 := by decide
theorem test_E13_busy_seed_read : (memRead 0x180 4 (busyState .lcg 5 [])).2.statusWord = 0x01 := by decide
theorem test_E14_busy_message_read :
    (memRead 0x09C 4 { blockState 2 (Vector.replicate 16 7) with busy := true }).1 = 7 := by decide
theorem test_E15_reset : ({ busyState .lcg 5 [] with err := true, ecode := 3 }).resetUnit.statusWord = 0 := by decide

/-! ### Single steps -/

/-- The very next step runs a placed command. -/
theorem test_placed_word_runs : step (State.reset.withFetchWord 32 0x21) = exec (.digest 2) (busyState (.digest 2) 0 []) :=
  rfl

/-- A placed illegal word is the host's illegal write (R75). -/
theorem test_placed_illegal_word :
    (nextOf (step (State.reset.withFetchWord 32 0x12))).map (·.statusWord) = some 0x12 := by decide

/-- A reset asserted now is put off until the placed command has run. -/
theorem test_placed_word_before_reset :
    (nextOf (step ((withResets [0] State.reset).withFetchWord 32 0x7))).map (fun t => (t.busy, t.resets)) =
      some (false, [0]) := by decide

/-- From reset with nothing placed the machine idles. -/
theorem test_reset_idles : (nextOf (step State.reset)) = some State.reset := by decide

/-- P1's `cmd DSEED 0` is accepted (R164). -/
theorem test_cmd_line : (nextOf (step (idleState [.line (.cmd (.dseed 0))]))).map (fun t => (t.pending, t.busy)) =
    some (some (.dseed 0), true) := by decide

/-- P4, the write before the completion is dropped. -/
theorem test_busy_write_line :
    (nextOf (step (busyState (.digest 0) 1 [.line (.wr 0x03C 0x19)]))).map (fun t => (t.msg[0][15], t.statusWord)) =
      some (0, 0x23) := by decide

/-- P4, the completion before the write: the line stays for the step after. -/
theorem test_completion_before_write :
    (nextOf (step (busyState (.digest 0) 0 [.line (.wr 0x03C 0x19)]))).map (fun t => (t.inputs.length, t.statusWord)) =
      some (1, 0) := by decide

/-- P3's `rd 0x114 -> v3`: the host value is 0 and error 3 is recorded. -/
theorem test_read_line :
    (nextOf (step (idleState [.line (.rd 0x114 3)]))).map (fun t => (t.vals.get? 3, t.statusWord)) =
      some (some 0, 0x32) := by decide

theorem test_wait_repeats_while_busy :
    (nextOf (step (busyState .lcg 2 [.line .wait]))).map (fun t => (t.inputs, t.delay)) = some ([.line .wait], 1) := by
  decide

/-- R201: reset between two reads of a `wait` line abandons the pending command and leaves the line to come. -/
theorem test_reset_between_two_waits :
    (nextOf (step (withResets [0, 3] (busyState .lcg 2 [.line .wait])))).map
      (fun t => (t.pending, t.statusWord, t.inputs, t.resets)) = some (none, 0, [.line .wait], [3]) := by decide

/-- A reset asserted while a completion is due comes first (R201): `DIG` holds a free value, not the digest. -/
theorem test_reset_before_completion :
    (nextOf (step (withResets [0] (busyState (.digest 0) 0 [])))).map (fun t => t.dig[0][0]) =
      some (Config.resetReg 0 (.dig 0 0)) := by rfl

/-- R168: the run of `cmd DIGEST 0; rd MSG[0][0] -> v0` ends at the `rd`, while the command is pending. -/
theorem test_run_ends_at_read :
    ∃ t, EndsRun (busyState (.digest 0) 5 [.line (.rd 0x000 0)]) t ∧ t.busy = true :=
  ⟨_, ⟨rfl, by decide, by decide⟩, rfl⟩

/-- R173 with places and identity written out: byte 0 in word 6 at byte 3, every other byte in word 7. -/
theorem test_placed_identity :
    placedIdentityWith (fun b => if b = 0 then (0, 3) else (1, 0)) #v[0x12, 1, 2, 4, 8, 16] 0 = 0x12000000 ∧
    placedIdentityWith (fun b => if b = 0 then (0, 3) else (1, 0)) #v[0x12, 1, 2, 4, 8, 16] 1 = 0x1F := by decide

/-- R175: the key input at word 12, as in program P2. -/
theorem test_key_words : keyWordsAt 2 0x2FFF0000 (0, 1) = (0, 1, 0x2FFF0000) := by decide

/-- Word 5 of program P2, lane 0, with `norm = bswap32`. -/
theorem test_word5_P2 :
    (messageBlockWith bswap32 (0, 0) (0, 0, 0) (Vector.replicate 5 0) ⟨0x60, 0xC79, 0, 0⟩)[5] = 0x790C6000 := by decide

/-- The block of program P2, lane 0, and its digest. -/
theorem test_digest_P2 :
    compress (messageBlockWith id (0x112B3344, 0x55667788) (0, 0, 0x2FFF0000)
      #v[0x01234567, 0x89ABCDEF, 0xFEDCBA98, 0x76543210, 0x0F1E2D3C] ⟨0x790C, 0x6000, 0x26111104, 0x12345600⟩) =
      #v[0x903A4B16, 0x84B3A7D3, 0xCFE83A60, 0x258AF6B5, 0x14CEB46F] := by decide +kernel

/-- R57: `wordOfBusBytes` puts byte lane 0 in bits 7:0. -/
theorem test_bus_bytes : wordOfBusBytes 0x78 0x56 0x34 0x12 = 0x12345678 ∧ busByte 0x12345678 3 = 0x12 := by decide

/-! ### Witnesses: each statement's hypotheses are met together -/

theorem test_witness_IllegalWordsAndTheirWrite :
    decode 0x12 = .illegal .laneNotZero ∧ State.reset.busy = false := by decide

theorem test_witness_ScheduleExpandsBlock : 16 ≤ 79 ∧ 79 < 80 := by decide

theorem test_witness_SeedCornerCases : (0x269EC3 : DWord).toNat < 2 ^ 32 := by decide

theorem test_witness_LcgStepCornerCases : (0x5D588B656C078965 : DWord).getLsbD 0 = true := by decide

theorem test_witness_LaneFrames : (3 : Lane) ≠ 0 := by decide

/-- Two states that agree on what `SEED 0` reads and differ elsewhere. -/
theorem test_witness_CommandsTouchOnlyTheirRegisters :
    (∀ r : Reg, (Instr.seed 0).reads r = true → (blockState 1 abcBlock).readReg r = State.reset.readReg r) ∧
      blockState 1 abcBlock ≠ State.reset := by
  refine ⟨?_, by decide⟩
  intro r hr
  cases r <;> first | rfl | simp [Instr.reads] at hr

/-- Two states that agree on lane 0 and differ in lane 1. -/
theorem test_witness_LanesAreIndependent :
    ∃ t t', State.SameLane 0 (blockState 1 abcBlock) State.reset ∧ exec (.digest 0) (blockState 1 abcBlock) = .next t ∧
      exec (.digest 0) State.reset = .next t' := ⟨_, _, by decide, rfl, rfl⟩

theorem test_witness_Digest4EqualsFourDigests :
    ([3, 0, 2, 1] : List Lane).Perm [0, 1, 2, 3] ∧ State.reset.pending = none := by decide

theorem test_witness_Seed4AndDseed4EqualFourScalars :
    ([2, 3, 1, 0] : List Lane).Perm [0, 1, 2, 3] ∧ (blockState 2 abcBlock).pending = none := by decide

theorem test_witness_SeedEqualsLcgHigh :
    ∃ u : State, u.lcgHi = bswap32 State.reset.dig[3][1] ∧ u.lcgLo = bswap32 State.reset.dig[3][0] :=
  ⟨State.reset, by decide⟩

theorem test_witness_DigestsAreDeterministic :
    (blockState 1 abcBlock).msg[0] = State.reset.msg[0] ∧ blockState 1 abcBlock ≠ State.reset ∧
      (errorState 1 []).msg = State.reset.msg := by decide

theorem test_witness_AcceptedWriteStartsCommand : decode 0x35 = .command (.dseed 3) ∧ State.reset.busy = false := by
  decide

theorem test_witness_StatusWriteClearsError :
    (0x1C4 ≤ (0x1C4 : BitVec 9).toNat ∧ (0x1C4 : BitVec 9).toNat < 0x1C8 ∧ (2 : Nat) ≠ 4) ∧
      (0x1C4 ≤ (0x1C7 : BitVec 9).toNat ∧ (0x1C7 : BitVec 9).toNat < 0x1C8 ∧ (0x1C7 : BitVec 9) ≠ 0x1C4) := by decide

theorem test_witness_FirstErrorIsKept : State.reset.err = false ∧ (errorState 1 []).err = true := by decide

theorem test_witness_WriteErrors :
    (Reg.cmd ≠ .status ∧ (busyState .lcg 1 []).busy = true) ∧
      (State.reset.busy = false ∧ decode 0x40 = .illegal .reservedBits) := by decide

/-- Each kind of bad access, at the ends of its range. -/
theorem test_witness_BadAccessesRaiseErrorThree :
    (BadAccess 0x000 1 ∧ BadAccess 0x1C0 8 ∧ BadAccess 0x001 4 ∧ BadAccess 0x1FF 4 ∧ BadAccess 0x114 4) ∧
      (BadAccess 0x17C 4 ∧ BadAccess 0x198 4 ∧ BadAccess 0x1BC 4 ∧ BadAccess 0x1C8 4 ∧ BadAccess 0x1FC 4) :=
  ⟨by decide, by decide⟩

/-- The good accesses beside them. -/
theorem test_good_accesses :
    (¬BadAccess 0x110 4 ∧ ¬BadAccess 0x120 4 ∧ ¬BadAccess 0x170 4) ∧
      (¬BadAccess 0x180 4 ∧ ¬BadAccess 0x194 4 ∧ ¬BadAccess 0x1C0 4 ∧ ¬BadAccess 0x1C4 4) :=
  ⟨by decide, by decide⟩

/-- Each branch of the error priority is reached. -/
theorem test_witness_ErrorPriority :
    (¬BadAccess 0x1C0 4 ∧ (0x1C0 : BitVec 9) ≠ 0x1C4 ∧ (busyState .lcg 1 []).busy = true) ∧
      (¬BadAccess 0x1C0 4 ∧ (decode 0x8).toOption = none ∧ State.reset.busy = false) ∧ ¬BadAccess 0x000 4 := by decide

theorem test_witness_IdleReadsReturnTheRegister : State.reset.busy = false := by decide

theorem test_witness_BusyReadsAreDraws :
    (busyState .lcg 1 []).busy = true ∧ (Reg.dig 0 4).drawnWhenBusy = true ∧ Reg.lcgHi.drawnWhenBusy = true := by decide

theorem test_witness_IdleWriteSetsOneRegister :
    State.reset.busy = false ∧ (Reg.dig 3 4).isData = true ∧ (Reg.dig 3 3) ≠ .dig 3 4 := by decide

/-- The step clause, as a line at the last data register of the map and as a write by address. -/
theorem test_witness_IdleWriteSetsOneRegister_step :
    (idleState [.line (.wrReg .lcgHi 1)]).busy = false ∧ (idleState [.line (.wrReg .lcgHi 1)]).turn = .host ∧
      (idleState [.line (.wrReg .lcgHi 1)]).inputs = .line (.wrReg .lcgHi 1) :: [] ∧
      (idleState [.write (Config.base + Reg.lcgHi.offset) 4 1]).turn = .host := by decide

theorem test_witness_StepKeepsInvariant :
    ∃ s t : State, s.Inv ∧ step s = .next t ∧ s.pending = some (.digest 0) :=
  ⟨busyState (.digest 0) 0 [], _, by decide, rfl, rfl⟩

theorem test_witness_ResetEventAbandonsCommand :
    (withResets [0] (busyState .lcg 0 [.line .wait])).resetDue = true := by decide

/-- One step with a command pending, a `wait` line repeated. -/
theorem test_witness_ResetMayComeBetweenAnyTwoSteps :
    ∃ t, (busyState .lcg 2 [.line .wait]).resets = [] ∧
      Sys2Proof.core.run 1 (busyState .lcg 2 [.line .wait]) = .next t ∧ t.inputs = [.line .wait] ∧ t.busy = true :=
  ⟨_, rfl, rfl, by decide, by decide⟩

theorem test_witness_StepRunsPendingCommand :
    (busyState .seed4 0 []).pending = some .seed4 ∧ (busyState .seed4 0 []).delay = 0 ∧
      (busyState .seed4 0 []).resets = [] ∧ (busyState .seed4 0 []).resetDue = false ∧
      (withResets [1] (busyState .seed4 0 [])).resetDue = false := by decide

theorem test_witness_HostLineStartsCommand :
    (idleState [.line (.cmd (.digest 1))]).Idle ∧ (idleState [.line (.cmd (.digest 1))]).resetDue = false ∧
      (idleState [.line (.cmd (.digest 1))]).inputs = .line (.cmd (.digest 1)) :: [] := by decide

theorem test_witness_OperandsFrozenWhileBusy :
    ∃ s t : State, s.pending = some (.digest 0) ∧ s.busy = true ∧ s.delay ≠ 0 ∧ s.resetDue = false ∧ step s = .next t :=
  ⟨busyState (.digest 0) 1 [.line (.wr 0 5)], _, rfl, rfl, by decide, by decide, rfl⟩

theorem test_witness_CommandCompletesFromAcceptedValues :
    ∃ s : State, s.pending = some (.dseed 1) ∧ s.busy = true ∧ s.delay = 3 ∧ s.inputs ≠ [] ∧
      (∀ e ∈ s.inputs, e.ordinary = true) ∧ (∀ n, s.resets.head? = some n → s.delay < n) ∧ s.resets ≠ [] :=
  ⟨withResets [4] (busyState (.dseed 1) 3 [.line .wait, .line (.rd 0x1FF 0)]), rfl, rfl, rfl, by decide, by
    intro e he
    simp only [withResets, busyState, List.mem_cons, List.not_mem_nil, or_false] at he
    rcases he with rfl | rfl <;> rfl, by
    intro n hn
    cases hn
    decide, by decide⟩

theorem test_witness_IdleUntilAcceptedCommand :
    ∃ t, (idleState [.line (.wr 0x1C0 0x12)]).Idle ∧ step (idleState [.line (.wr 0x1C0 0x12)]) = .next t :=
  ⟨_, by decide, rfl⟩

/-- A register changed by a completion. -/
theorem test_witness_OnlyTheseEventsChangeARegister :
    ∃ t, (Reg.dig 0 0).isData = true ∧ step (busyState (.digest 0) 0 []) = .next t ∧
      t.readReg (.dig 0 0) ≠ (busyState (.digest 0) 0 []).readReg (.dig 0 0) := ⟨_, rfl, rfl, by decide +kernel⟩

/-- A register changed by a host write, at the last data register of the map. -/
theorem test_witness_RegisterChangedByHost :
    ∃ t, Reg.lcgHi.isData = true ∧ step (idleState [.line (.wr 0x194 1)]) = .next t ∧
      t.readReg .lcgHi ≠ (idleState [.line (.wr 0x194 1)]).readReg .lcgHi := ⟨_, rfl, rfl, by decide⟩

/-- A register changed by reset: its value is free, so the witness is the turn. -/
theorem test_witness_RegisterChangedByReset :
    (withResets [0] State.reset).turn = .reset ∧ ∃ t, step (withResets [0] State.reset) = .next t := ⟨by decide, _, rfl⟩

/-- An error kept over a second error. -/
theorem test_witness_RecordedErrorStaysUntilCleared :
    ∃ t, (errorState 1 [.line (.rd 0x114 0)]).err = true ∧ step (errorState 1 [.line (.rd 0x114 0)]) = .next t :=
  ⟨_, rfl, rfl⟩

theorem test_witness_WaitPollsBusy :
    (idleState [.line .wait]).turn = .host ∧ (idleState [.line .wait]).inputs = .line .wait :: [] ∧
      (idleState [.line .wait]).busy = false ∧ (busyState .lcg 1 [.line .wait]).turn = .host ∧
      (busyState .lcg 1 [.line .wait]).busy = true := by decide

/-- A `poll` of a reserved offset, whose read of 0 does not match 1, and one at the last offset that matches 0. -/
theorem test_witness_PollClause :
    (idleState [.line (.poll 0x1C8 1 1)]).turn = .host ∧ 0x1FF < 0x200 ∧ (memRead 0x1C8 4 State.reset).1 &&& 1 ≠ 1 ∧
      (memRead 0x1FF 4 State.reset).1 &&& 1 = 0 := by decide

/-- R165: a `poll` tests for its value, not for 0: bit 0 of a busy `STATUS` is 1, so the line is done at its first read. -/
theorem test_poll_for_one :
    (nextOf (step (busyState .lcg 2 [.line (.poll 0x1C4 1 1)]))).map (·.inputs) = some [] ∧
    (nextOf (step (idleState [.line (.poll 0x1C4 1 1)]))).map (fun t => t.inputs) =
      some [.line (.poll 0x1C4 1 1)] := by decide

theorem test_witness_ClrClearsTheError :
    (errorState 3 [.line .clr]).turn = .host ∧ (errorState 3 [.line .clr]).inputs = .line .clr :: [] := by decide

theorem test_witness_ReadLineSetsOneHostValue :
    (idleState [.line (.rdReg .status 6)]).Idle ∧ (idleState [.line (.rdReg .status 6)]).resetDue = false ∧
      (idleState [.line (.rdReg .status 6)]).inputs = .line (.rdReg .status 6) :: [] := by decide

theorem test_witness_OutsideWindowIsRefused :
    (idleState [.line (.wr 0x200 0)]).turn = .host ∧ 0x200 ≤ (HostLine.wr 0x200 0).off ∧
      (idleState [.line (.wr 0x200 0)]).inputs = .line (.wr 0x200 0) :: [] := by decide

/-- The first address past the window, for a read and for a write, of sizes other than 4. -/
theorem test_witness_AddressOutsideWindow :
    Config.base + 0x200 ≤ Config.base + 0x200 ∧ (idleState [.read (Config.base + 0x200) 1 0]).turn = .host ∧
      (idleState [.write (Config.base + 0x200) 2 0]).turn = .host :=
  ⟨Nat.le_refl _, by decide, by decide⟩

/-- The lines' form of an access, at the last offset of the window while busy. -/
theorem test_witness_WindowLines :
    ∃ (e : Event) (n off : Nat), off < 0x200 ∧ (n = 4 ∧ e = .line (.rd off 3)) ∧ (busyState .lcg 1 [e]).turn = .host :=
  ⟨.line (.rd 0x1FF 3), 4, 0x1FF, by decide, ⟨rfl, rfl⟩, by decide⟩

/-- The last offset of the window, and a host turn with a 2-byte access. -/
theorem test_witness_WindowIsPlacedAtBase :
    0x1FF < 0x200 ∧ (1 : Nat) ≠ 0 ∧ (idleState [.write (Config.base + 0x1FF) 2 0]).turn = .host ∧
      (Config.base ≤ Config.base + 0x1FF ∧ Config.base + 0x1FF < Config.base + 0x200) := by
  refine ⟨by decide, by decide, by decide, by omega, by omega⟩

theorem test_witness_MessageBlockLayout :
    ((15 : Fin 16) ≠ 5 ∧ (15 : Fin 16) ≠ 8 ∧ (15 : Fin 16) ≠ 9) ∧ ∃ j : Fin 3, j ≠ Config.keyPlace :=
  ⟨by decide, Config.keyPlace + 1, by generalize Config.keyPlace = k; revert k; decide⟩

/-- Both sides of the 12-hour boundary. -/
theorem test_witness_TimeCodeDiffersByOneBit :
    30 < 32 ∧ timeCodeForHardware .variantA 43200 0 = 0x40000000 ∧ timeCodeForHardware .variantB 43199 0 = 0 ∧
      timeCodeForHardware .variantC 43200 0 = 0 := by decide

theorem test_witness_PaddedBlockIsSha1OfItsBytes :
    (#v[1, 2, 3, 4, 5, 6, 7, 8, 9, 10, 11, 12, 13, 0x80000000, 0, 0x1A0] : Block)[13] = 0x80000000 ∧
      (#v[1, 2, 3, 4, 5, 6, 7, 8, 9, 10, 11, 12, 13, 0x80000000, 0, 0x1A0] : Block)[14] = 0 ∧
      (#v[1, 2, 3, 4, 5, 6, 7, 8, 9, 10, 11, 12, 13, 0x80000000, 0, 0x1A0] : Block)[15] = 0x1A0 := by decide

theorem test_witness_RunEndsWithTheLastCommand :
    (idleState [.line (.cmd .lcg)]).Idle ∧ (idleState [.line (.cmd .lcg)]).inputs = [.line (.cmd .lcg)] ∧
      (idleState [.line (.cmd .lcg)]).resets.head? = none := by decide

/-- One event left on the host's turn, a command still pending. -/
theorem test_witness_LastEvent :
    ∃ t, (busyState .lcg 5 [.line (.rd 0x000 0)]).turn = .host ∧
      (busyState .lcg 5 [.line (.rd 0x000 0)]).inputs = [.line (.rd 0x000 0)] ∧
      step (busyState .lcg 5 [.line (.rd 0x000 0)]) = .next t := ⟨_, by decide, rfl, rfl⟩

/-- A run that has ended, with a command accepted before its last line still pending. -/
theorem test_witness_RunEndedStays :
    ∃ t, (busyState .lcg 5 []).RunEnded ∧ step (busyState .lcg 5 []) = .next t :=
  ⟨_, by decide, step_of_host_nil (by decide) rfl⟩

theorem test_witness_OffsetDecodeIsTheRegisterMap : (0x1FC : BitVec 9).toNat % 4 = 0 ∧ (0 : BitVec 9).toNat % 4 = 0 := by
  decide

end Sys2Proof.Tests
end

section
/-!
PROOFS. The byte lanes of a word (spec/20_memory.md R57) and the byte reversal `bswap32` (spec/00_scope.md R13): what
`busByte` reads of a word put together by `wordOfBusBytes`, both as shifts and masks, and the statement of the family
00_scope.md about them.
-/

namespace Sys2Proof.Machine

/-! ### Reading a byte lane back -/

@[simp] theorem busByte_wordOfBusBytes_zero (b0 b1 b2 b3 : Byte) : busByte (wordOfBusBytes b0 b1 b2 b3) 0 = b0 :=
  BitVec.extractLsb'_append_eq_right

@[simp] theorem busByte_wordOfBusBytes_one (b0 b1 b2 b3 : Byte) : busByte (wordOfBusBytes b0 b1 b2 b3) 1 = b1 :=
  calc busByte (wordOfBusBytes b0 b1 b2 b3) 1
    _ = BitVec.extractLsb' 0 8 (b3 ++ b2 ++ b1) := BitVec.extractLsb'_append_eq_of_le (start := 8) (by decide)
    _ = b1 := BitVec.extractLsb'_append_eq_right

@[simp] theorem busByte_wordOfBusBytes_two (b0 b1 b2 b3 : Byte) : busByte (wordOfBusBytes b0 b1 b2 b3) 2 = b2 :=
  calc busByte (wordOfBusBytes b0 b1 b2 b3) 2
    _ = BitVec.extractLsb' 8 8 (b3 ++ b2 ++ b1) := BitVec.extractLsb'_append_eq_of_le (start := 16) (by decide)
    _ = BitVec.extractLsb' 0 8 (b3 ++ b2) := BitVec.extractLsb'_append_eq_of_le (by decide)
    _ = b2 := BitVec.extractLsb'_append_eq_right

@[simp] theorem busByte_wordOfBusBytes_three (b0 b1 b2 b3 : Byte) : busByte (wordOfBusBytes b0 b1 b2 b3) 3 = b3 :=
  calc busByte (wordOfBusBytes b0 b1 b2 b3) 3
    _ = BitVec.extractLsb' 16 8 (b3 ++ b2 ++ b1) := BitVec.extractLsb'_append_eq_of_le (start := 24) (by decide)
    _ = BitVec.extractLsb' 8 8 (b3 ++ b2) := BitVec.extractLsb'_append_eq_of_le (by decide)
    _ = b3 := BitVec.extractLsb'_append_eq_left

/-- Byte `k` of the reversed word is byte `3 - k` of the word (R13). -/
theorem busByte_bswap32 (x : Word) (k : Fin 4) : busByte (bswap32 x) k.val = busByte x (3 - k.val) := by
  fin_cases k <;> simp [bswap32]

/-! ### Byte lanes as shifts and masks -/

/-- A byte lane, widened, is the word shifted down and masked to 8 bits. -/
theorem setWidth_busByte (x : Word) (k : Nat) : (busByte x k).setWidth 32 = (x >>> (8 * k)) &&& 0xFF := by
  apply BitVec.eq_of_toNat_eq
  have mask : x.toNat >>> (8 * k) &&& 255 = x.toNat >>> (8 * k) % 2 ^ 8 := Nat.and_two_pow_sub_one_eq_mod _ 8
  have fits : x.toNat >>> (8 * k) % 2 ^ 8 < 2 ^ 32 := by omega
  simpa [busByte, mask] using fits

/-- The highest byte lane needs no mask. -/
theorem setWidth_busByte_three (x : Word) : (busByte x 3).setWidth 32 = x >>> 24 := by
  apply BitVec.eq_of_toNat_eq
  simp only [busByte, BitVec.toNat_setWidth, BitVec.extractLsb'_toNat, BitVec.toNat_ushiftRight]
  omega

/-- A byte shifted up by at most three lanes loses no bit. -/
theorem toNat_setWidth_shiftLeft (b : Byte) {n : Nat} (hn : n ≤ 24) :
    (b.setWidth 32 <<< n).toNat = b.toNat <<< n := by
  have fits : b.toNat <<< n < 2 ^ 32 :=
    calc b.toNat <<< n
      _ = b.toNat * 2 ^ n := Nat.shiftLeft_eq _ _
      _ < 2 ^ 8 * 2 ^ 24 := Nat.mul_lt_mul_of_lt_of_le b.isLt (Nat.pow_le_pow_right (by decide) hn) (by decide)
  rw [BitVec.toNat_shiftLeft, BitVec.toNat_setWidth_of_le (by decide), Nat.mod_eq_of_lt fits]

/-- Four byte lanes side by side are the OR of the bytes, each shifted to its lane. -/
theorem wordOfBusBytes_eq_or (b0 b1 b2 b3 : Byte) :
    wordOfBusBytes b0 b1 b2 b3 =
      (b3.setWidth 32 <<< 24) ||| (b2.setWidth 32 <<< 16) ||| (b1.setWidth 32 <<< 8) ||| b0.setWidth 32 := by
  apply BitVec.eq_of_toNat_eq
  have lanes : (wordOfBusBytes b0 b1 b2 b3).toNat =
      b3.toNat <<< 24 ||| b2.toNat <<< 16 ||| b1.toNat <<< 8 ||| b0.toNat := by
    simp only [wordOfBusBytes, BitVec.toNat_append, Nat.shiftLeft_or_distrib, ← Nat.shiftLeft_add]
  have lane0 : (b0.setWidth 32).toNat = b0.toNat := BitVec.toNat_setWidth_of_le (by decide)
  simp only [lanes, lane0, BitVec.toNat_or, toNat_setWidth_shiftLeft, Nat.reduceLeDiff]

/-- The formula of R13: every byte masked out and shifted to its new lane. -/
theorem bswap32_eq_or (x : Word) :
    bswap32 x = ((x &&& 0xFF) <<< 24) ||| (((x >>> 8) &&& 0xFF) <<< 16) ||| (((x >>> 16) &&& 0xFF) <<< 8) |||
      (x >>> 24) := by
  rw [bswap32, wordOfBusBytes_eq_or, setWidth_busByte_three, setWidth_busByte, setWidth_busByte, setWidth_busByte]
  simp only [Nat.reduceMul, BitVec.ushiftRight_zero]

/-- Settles O9: R13's formula and the byte reversal, from the byte lanes of `wordOfBusBytes`. -/
theorem byteSwapReversesBytes : Obligations.ByteSwapReversesBytes :=
  fun x => ⟨bswap32_eq_or x, busByte_bswap32 x⟩

end Sys2Proof.Machine
end

section
/-!
PROOFS. The word of the register `STATUS` (spec/10_state.md R26): its value as a number, from which each field is read
off.
-/

namespace Sys2Proof.Machine

/-- Two bit vectors side by side, as a number: the upper one times the weight of its lowest bit, plus the lower one. -/
theorem toNat_append_eq_add {m n : Nat} (x : BitVec m) (y : BitVec n) :
    (x ++ y).toNat = x.toNat * 2 ^ n + y.toNat := by
  rw [BitVec.toNat_append, ← Nat.shiftLeft_add_eq_or_of_lt y.isLt, Nat.shiftLeft_eq]

/-- The word of `STATUS` as a number: each field times the weight of its lowest bit (R26). -/
theorem State.statusWord_toNat (s : State) :
    s.statusWord.toNat = s.busy.toNat + 2 * s.err.toNat + 16 * s.ecode.toNat := by
  simp only [State.statusWord, toNat_append_eq_add, BitVec.toNat_ofBool, BitVec.ofNat_eq_ofNat, BitVec.toNat_ofNat]
  omega

/-- A bit of the word of `STATUS`. -/
theorem State.statusWord_bit (s : State) (i : Nat) :
    s.statusWord.getLsbD i = decide ((s.busy.toNat + 2 * s.err.toNat + 16 * s.ecode.toNat) / 2 ^ i % 2 = 1) := by
  rw [← BitVec.testBit_toNat, s.statusWord_toNat, Nat.testBit_eq_decide_div_mod_eq]

/-- The `n` bits of the word of `STATUS` from bit `i` on, as a number. -/
theorem State.statusWord_field (s : State) (i n : Nat) :
    (s.statusWord.extractLsb' i n).toNat = (s.busy.toNat + 2 * s.err.toNat + 16 * s.ecode.toNat) / 2 ^ i % 2 ^ n := by
  rw [BitVec.extractLsb'_toNat, s.statusWord_toNat, Nat.shiftRight_eq_div_pow]

/-- `BUSY` is bit 0. -/
theorem State.statusWord_busy (s : State) : s.statusWord.getLsbD 0 = s.busy := by
  rw [s.statusWord_bit]
  cases s.busy <;> simp <;> omega

/-- `ERR` is bit 1. -/
theorem State.statusWord_err (s : State) : s.statusWord.getLsbD 1 = s.err := by
  have hb := s.busy.toNat_lt
  rw [s.statusWord_bit]
  cases s.err <;> simp <;> omega

/-- Bits 3:2 are 0. -/
theorem State.statusWord_reserved_low (s : State) : s.statusWord.extractLsb' 2 2 = 0 := by
  have hb := s.busy.toNat_lt
  have he := s.err.toNat_lt
  apply BitVec.eq_of_toNat_eq
  rw [s.statusWord_field, BitVec.ofNat_eq_ofNat, BitVec.toNat_zero]
  omega

/-- `ECODE` is bits 7:4. -/
theorem State.statusWord_ecode (s : State) : s.statusWord.extractLsb' 4 4 = s.ecode := by
  have hb := s.busy.toNat_lt
  have he := s.err.toNat_lt
  apply BitVec.eq_of_toNat_eq
  rw [s.statusWord_field]
  omega

/-- Bits 31:8 are 0. -/
theorem State.statusWord_reserved_high (s : State) : s.statusWord.extractLsb' 8 24 = 0 := by
  have hb := s.busy.toNat_lt
  have he := s.err.toNat_lt
  apply BitVec.eq_of_toNat_eq
  rw [s.statusWord_field, BitVec.ofNat_eq_ofNat, BitVec.toNat_zero]
  omega

/-- Settles O37: every field is read off the word's value as a number. -/
theorem statusWordLayout : Obligations.StatusWordLayout := by
  refine fun s => ⟨s.statusWord_busy, s.statusWord_err, s.statusWord_reserved_low, s.statusWord_ecode,
    s.statusWord_reserved_high, ?_⟩
  rw [s.statusWord_toNat]
  cases s.busy <;> cases s.err <;> rfl

end Sys2Proof.Machine
end

section
/-!
PROOFS. The host's accesses to `CMD` and `STATUS` (spec/10_state.md R28, R33, R39), the command word's way through the
decoder, and where an event stands that reaches a register of the map.
-/

namespace Sys2Proof

/-- The decoder reads a command from the word that encodes it (R74, R77). -/
@[simp] theorem decode_encode (i : Instr) : decode (encode i) = .command i := by
  cases i <;> simp [encode, decode, unlaned, opField_formatC, laneField_formatC, rsvField_formatC]

/-- The table's decoder reads a command from its 32-bit word. -/
@[simp] theorem decodeTableWord_encode (i : Instr) : decodeTableWord 32 (encode i).toNat = some i := by
  have fits : BitVec.ofNat 32 ((encode i).toNat % 2 ^ 32) = encode i := by
    rw [Nat.mod_eq_of_lt (encode i).isLt, BitVec.ofNat_toNat, BitVec.setWidth_eq]
  rw [decodeTableWord, if_pos (Nat.le_refl 32), fits, decode_encode]
  rfl

namespace Machine

/-! ### Accesses to `CMD` and `STATUS` -/

/-- A 4-byte write to `STATUS`, idle or busy (R28). -/
theorem memWrite_status (v : Word) (s : State) : memWrite 0x1C4 4 v s = s.writeStatus v := by
  simp [memWrite]

/-- A 4-byte read of `STATUS`, idle or busy, is its word (R160, R207). -/
theorem memRead_status (s : State) : memRead 0x1C4 4 s = (s.statusWord, s) := by
  simp [memRead, Reg.drawnWhenBusy, State.readReg]

/-- A 4-byte read of `CMD`, idle or busy, is 0 (R25, R207). -/
theorem memRead_cmd (s : State) : memRead 0x1C0 4 s = (0, s) := by
  simp [memRead, Reg.drawnWhenBusy, State.readReg]

/-- A 4-byte write of a command's word to `CMD` while idle is its acceptance (R33). -/
theorem memWrite_cmd_accept {c : Word} {i : Instr} {s : State} (hc : decode c = .command i) (hs : s.busy = false) :
    memWrite 0x1C0 4 c s = s.accept i := by
  simp [memWrite, hs, writeCmd, hc]

/-- A bad access that writes records error 3 and changes nothing else (R182). -/
theorem memWrite_of_badAccess {off : BitVec 9} {n : Nat} (h : BadAccess off n) (v : Word) (s : State) :
    memWrite off n v s = s.raiseError .badAccess := by
  simp [memWrite, (accessTarget_eq_none off n).mpr h]

/-- An access to one of the four bytes of `STATUS` that is not of 4 bytes at its offset is a bad access (R28, R182). -/
theorem badAccess_of_status_byte {off : BitVec 9} {n : Nat} (hlo : 0x1C4 ≤ off.toNat) (hhi : off.toNat < 0x1C8)
    (h : n ≠ 4 ∨ off ≠ 0x1C4) : BadAccess off n := by
  rcases h with hn | hoff
  · exact .inl hn
  · have : off.toNat ≠ 0x1C4 := fun e => hoff (BitVec.eq_of_toNat_eq e)
    exact .inr (.inl (by omega))

/-- Settles O30: a legal write is `writeStatus`, any other is a bad access. -/
theorem statusWriteClearsError : Obligations.StatusWriteClearsError :=
  ⟨State.raiseError_err, fun s v => memWrite_status v s,
    fun s v _ _ hlo hhi h => memWrite_of_badAccess (badAccess_of_status_byte hlo hhi h) v s⟩

/-- Settles O29: the write is the acceptance of the command. -/
theorem acceptedWriteStartsCommand : Obligations.AcceptedWriteStartsCommand := by
  intro s c i hc hs
  rw [memWrite_cmd_accept hc hs]
  exact ⟨rfl, rfl, rfl, rfl, rfl, rfl, rfl⟩

/-- Settles O39: the fields after reset, and the two reads of them. -/
theorem resetLeavesUnitIdle : Obligations.ResetLeavesUnitIdle := by
  have status : State.reset.statusWord = 0 := by decide
  refine ⟨rfl, status, ?_, ?_, ⟨rfl, rfl⟩, rfl⟩
  · rw [memRead_status, status]
  · rw [memRead_cmd]

/-! ### Events -/

/-- An address of the window is its offset above `BASE` (R50). -/
theorem addressOffset_eq_some {base addr : Nat} {off : BitVec 9} (h : addressOffset base addr = some off) :
    addr = base + off.toNat := by
  unfold addressOffset at h
  split_ifs at h with hle
  have := windowOffset_eq_some h
  omega

/-- An event that writes and reaches a register is the line at that register's offset, or the write of 4 bytes at its
address. -/
theorem event_of_write_target {e : Event} {off : BitVec 9} {n : Nat} {v : Word} {r : Reg}
    (he : e = .line (.wr off.toNat v) ∧ n = 4 ∨
      ∃ addr, e = .write addr n v ∧ addressOffset Config.base addr = some off)
    (hr : accessTarget off n = some r) :
    e = .line (.wr r.offset v) ∨ e = .write (Config.base + r.offset) 4 v := by
  obtain ⟨rfl, rfl⟩ := accessTarget_eq_some hr
  have hoff : (BitVec.ofNat 9 r.offset).toNat = r.offset := by
    rw [BitVec.toNat_ofNat, Nat.mod_eq_of_lt r.offset_lt]
  rw [hoff] at he
  refine he.imp And.left ?_
  rintro ⟨addr, rfl, haddr⟩
  rw [addressOffset_eq_some haddr, hoff]

end Machine
end Sys2Proof
end

section
/-!
PROOFS. What every command leaves in the data registers (spec/10_state.md R36, R37): one lemma per kind of register, the
same for all commands, by the row of the table.
-/

namespace Sys2Proof

/-! ### The table of R36 -/

/-- A command writes the digest of a lane exactly where it reads that lane's message. -/
theorem Instr.reads_msg (i : Instr) (l : Lane) (k : Fin 16) (j : Fin 5) :
    i.reads (.msg l k) = i.writes (.dig l j) := by
  cases i <;> rfl

/-- A command that writes a lane's digest writes all five words of it. -/
theorem Instr.writes_dig (i : Instr) (l : Lane) (j k : Fin 5) : i.writes (.dig l j) = i.writes (.dig l k) := by
  cases i <;> rfl

/-- A command that writes a lane's seed writes that lane's digest as well or reads the digest's words 0 and 1. -/
theorem Instr.writes_dig_or_reads_of_writes_seed {i : Instr} {l : Lane} (h : i.writes (.seed l) = true) :
    i.writes (.dig l 0) = true ∨ i.reads (.dig l 0) = true ∧ i.reads (.dig l 1) = true := by
  cases i with
  | seed k =>
    have hl : l = k := by simpa [Instr.writes] using h
    exact .inr (by simp [Instr.reads, hl])
  | seed4 => exact .inr ⟨rfl, rfl⟩
  | dseed _ | dseed4 => exact .inl h
  | digest _ | digest4 | lcg => cases h

/-- The command that writes a half of `LCG` reads both halves. -/
theorem Instr.reads_lcg_of_writes {i : Instr} (h : i.writes .lcgLo = true ∨ i.writes .lcgHi = true) :
    i.reads .lcgLo = true ∧ i.reads .lcgHi = true := by
  cases i with
  | lcg => exact ⟨rfl, rfl⟩
  | _ => simp [Instr.writes] at h

/-- No command writes a message register. -/
theorem Instr.writes_msg (i : Instr) (l : Lane) (k : Fin 16) : i.writes (.msg l k) = false := by
  cases i <;> rfl

namespace Machine

/-! ### What a command leaves in each register -/

variable {i : Instr} {s t : State}

/-- A command that answers a next state has completed (R34). -/
theorem exec_completed (h : exec i s = .next t) : s.Completed t := by
  obtain ⟨u, hu, hpending, hbusy, -, hrest⟩ := exec_next i s
  obtain rfl : u = t := by simpa [h] using hu.symm
  exact ⟨hpending, hbusy, hrest⟩

theorem exec_msg (h : exec i s = .next t) : t.msg = s.msg := by
  cases i <;> cases h <;> rfl

/-- The digest of a lane after a command: that of the lane's message where the command writes it. -/
theorem exec_dig (h : exec i s = .next t) (l : Lane) :
    t.dig[l] = if i.writes (.dig l 0) then compress s.msg[l] else s.dig[l] := by
  cases i with
  | digest k | dseed k =>
    cases h
    by_cases hl : l = k
    · subst hl; simp [Instr.writes]
    · simp [Instr.writes, hl, set_lane_other _ _ _ _ hl]
  | digest4 | dseed4 => cases h; simp [Instr.writes]
  | seed _ | seed4 | lcg => cases h; simp [Instr.writes]

/-- The seed of a lane after a command: that of the digest the command leaves in the lane, where the command writes
it. -/
theorem exec_seed_lane (h : exec i s = .next t) (l : Lane) :
    t.seed[l] = if i.writes (.seed l) then seedOf t.dig[l] else s.seed[l] := by
  cases i with
  | seed k | dseed k =>
    cases h
    by_cases hl : l = k
    · subst hl; simp [Instr.writes]
    · simp [Instr.writes, hl, set_lane_other _ _ _ _ hl]
  | seed4 | dseed4 => cases h; simp [Instr.writes]
  | digest _ | digest4 | lcg => cases h; simp [Instr.writes]

theorem exec_lcgLo (h : exec i s = .next t) :
    t.lcgLo = if i.writes .lcgLo then (lcgStep s.lcg).extractLsb' 0 32 else s.lcgLo := by
  cases i <;> cases h <;> rfl

theorem exec_lcgHi (h : exec i s = .next t) :
    t.lcgHi = if i.writes .lcgHi then (lcgStep s.lcg).extractLsb' 32 32 else s.lcgHi := by
  cases i <;> cases h <;> rfl

/-- Settles O22: what a command leaves in a lane is a function of that lane. -/
theorem lanesAreIndependent : Obligations.LanesAreIndependent := by
  rintro i l s s' t t' ⟨hmsg, hdig, hseed⟩ h h'
  have dig : t.dig[l] = t'.dig[l] := by rw [exec_dig h, exec_dig h', hmsg, hdig]
  refine ⟨?_, dig, ?_⟩
  · rw [exec_msg h, exec_msg h', hmsg]
  · rw [exec_seed_lane h, exec_seed_lane h', dig, hseed]

/-- A data register outside the row's 'writes' is unchanged. -/
theorem exec_readReg_of_not_writes (h : exec i s = .next t) {r : Reg} (hr : r.isData = true)
    (hw : i.writes r = false) : t.readReg r = s.readReg r := by
  cases r with
  | msg l k => simp only [State.readReg, exec_msg h]
  | dig l j =>
    rw [i.writes_dig l j 0] at hw
    simp [State.readReg, exec_dig h l, hw]
  | seed l => simp [State.readReg, exec_seed_lane h l, hw]
  | lcgLo => simp [State.readReg, exec_lcgLo h, hw]
  | lcgHi => simp [State.readReg, exec_lcgHi h, hw]
  | cmd | status => cases hr

/-! ### What a command's results depend on -/

/-- Two states hold the same words in the registers of a set. -/
def State.AgreeOn (rs : Reg → Bool) (s s' : State) : Prop :=
  ∀ r : Reg, rs r = true → s'.readReg r = s.readReg r

variable {s' t' : State}

/-- States that agree on what a command reads hold the same message in a lane whose digest it writes. -/
theorem State.AgreeOn.msg (hs : s.AgreeOn i.reads s') {l : Lane} (hw : i.writes (.dig l 0) = true) :
    s'.msg[l] = s.msg[l] :=
  Vector.ext fun k hk => hs (.msg l ⟨k, hk⟩) (by rw [i.reads_msg l _ 0, hw])

/-- States that agree on what a command reads hold the same 64-bit value of `LCG` where the command writes a half of
it. -/
theorem State.AgreeOn.lcg (hs : s.AgreeOn i.reads s') (hw : i.writes .lcgLo = true ∨ i.writes .lcgHi = true) :
    s'.lcg = s.lcg := by
  obtain ⟨hlo, hhi⟩ := Instr.reads_lcg_of_writes hw
  have lo : s'.lcgLo = s.lcgLo := hs .lcgLo hlo
  have hi : s'.lcgHi = s.lcgHi := hs .lcgHi hhi
  rw [State.lcg, State.lcg, lo, hi]

section
variable (h : exec i s = .next t) (h' : exec i s' = .next t') (hs : s.AgreeOn i.reads s')
include h h' hs

theorem exec_dig_congr {l : Lane} (hw : i.writes (.dig l 0) = true) : t'.dig[l] = t.dig[l] := by
  rw [exec_dig h', exec_dig h, if_pos hw, if_pos hw, hs.msg hw]

theorem exec_seed_congr {l : Lane} (hw : i.writes (.seed l) = true) : t'.seed[l] = t.seed[l] := by
  rw [exec_seed_lane h', exec_seed_lane h, if_pos hw, if_pos hw]
  by_cases hd : i.writes (.dig l 0) = true
  · rw [exec_dig_congr h h' hs hd]
  · obtain ⟨r0, r1⟩ := (Instr.writes_dig_or_reads_of_writes_seed hw).resolve_left hd
    have word0 : s'.dig[l][0] = s.dig[l][0] := hs (.dig l 0) r0
    have word1 : s'.dig[l][1] = s.dig[l][1] := hs (.dig l 1) r1
    rw [exec_dig h', exec_dig h, if_neg hd, if_neg hd, seedOf, seedOf, word0, word1]

/-- From states that agree on the row's 'reads' a command leaves the same words in its row's 'writes'. -/
theorem exec_agreeOn_writes : t.AgreeOn i.writes t' := by
  intro r hw
  cases r with
  | msg l k => rw [i.writes_msg] at hw; cases hw
  | dig l j =>
    rw [i.writes_dig l j 0] at hw
    simp only [State.readReg, exec_dig_congr h h' hs hw]
  | seed l => exact exec_seed_congr h h' hs hw
  | lcgLo => simp only [State.readReg, exec_lcgLo h, exec_lcgLo h', hw, hs.lcg (.inl hw), if_true]
  | lcgHi => simp only [State.readReg, exec_lcgHi h, exec_lcgHi h', hw, hs.lcg (.inr hw), if_true]
  | cmd | status => cases i <;> cases hw

end

/-- Settles O21: the frame and the dependence, register by register. -/
theorem commandsTouchOnlyTheirRegisters : Obligations.CommandsTouchOnlyTheirRegisters := by
  intro i s
  obtain ⟨t, h, -, hbusy, -⟩ := exec_next i s
  refine ⟨t, h, hbusy, fun r hr hw => exec_readReg_of_not_writes h hr hw, fun s' hs => ?_⟩
  obtain ⟨t', h', -⟩ := exec_next i s'
  exact ⟨t', h', exec_agreeOn_writes h h' hs⟩

end Machine
end Sys2Proof
end

section
/-!
PROOFS. The invariant of the machine (spec/10_state.md R26, R27, R29, R31): it holds at reset, every operation on the
state keeps it, and so does every step.
-/

namespace Sys2Proof.Machine

variable {s t : State}

/-! ### The operations of the unit -/

theorem State.Inv.resetUnit (h : s.Inv) : s.resetUnit.Inv := by
  obtain ⟨-, -, -, hvals⟩ := h
  exact ⟨rfl, rfl, fun _ => rfl, hvals⟩

theorem State.Inv.raiseError (h : s.Inv) (c : ErrorCode) : (s.raiseError c).Inv := by
  obtain ⟨hbusy, hstatus, hdelay, hvals⟩ := h
  exact ⟨hbusy, s.raiseError_statusLegal c hstatus, hdelay, hvals⟩

theorem State.Inv.writeStatus (h : s.Inv) (v : Word) : (s.writeStatus v).Inv := by
  obtain ⟨-, hw⟩ | ⟨-, hw⟩ := s.writeStatus_cases v
  · obtain ⟨hbusy, -, hdelay, hvals⟩ := h
    rw [hw]
    exact ⟨hbusy, rfl, hdelay, hvals⟩
  · rwa [hw]

theorem State.Inv.accept (h : s.Inv) (i : Instr) : (s.accept i).Inv := by
  obtain ⟨-, hstatus, -, hvals⟩ := h
  exact ⟨rfl, hstatus, nofun, hvals⟩

/-- The invariant looks at no data register. -/
theorem State.Inv.writeReg (h : s.Inv) (r : Reg) (v : Word) : (s.writeReg r v).Inv := by
  cases r <;> exact h

/-- A completion keeps the invariant where the delay has run out. -/
theorem State.Inv.exec (h : s.Inv) (hd : s.delay = 0) {i : Instr} (hx : exec i s = .next t) : t.Inv := by
  obtain ⟨-, hstatus, -, hvals⟩ := h
  obtain ⟨hpending, hbusy, herr, hecode, -, -, hv, -, hdelay, -⟩ := exec_completed hx
  exact ⟨by rw [hpending, hbusy]; rfl, by rw [State.statusLegal_congr herr hecode, hstatus],
    fun _ => by rw [hdelay, hd], by rw [hv, hvals]⟩

/-! ### Passing time and the host's side -/

theorem State.Inv.passStep (h : s.Inv) : s.passStep.Inv := h

theorem State.Inv.tick (h : s.Inv) : s.tick.Inv := by
  obtain ⟨hbusy, hstatus, hdelay, hvals⟩ := h
  exact ⟨hbusy, hstatus, fun hp => by rw [State.tick_delay, hdelay hp], hvals⟩

theorem State.Inv.takeEvent (h : s.Inv) (rest : List Event) : (s.takeEvent rest).Inv := h.tick

theorem State.Inv.setVal (h : s.Inv) (n : Nat) (v : Word) : (s.setVal n v).Inv := by
  obtain ⟨hbusy, hstatus, hdelay, hvals⟩ := h
  exact ⟨hbusy, hstatus, hdelay, HostVals.put_wf _ n v hvals⟩

/-! ### Accesses and events -/

theorem State.Inv.memRead (h : s.Inv) (off : BitVec 9) (n : Nat) : (memRead off n s).2.Inv := by
  obtain hr | hr | hr := memRead_frame off n s <;> rw [hr]
  · exact h
  · exact h
  · exact h.raiseError .badAccess

theorem State.Inv.memWrite (h : s.Inv) (off : BitVec 9) (n : Nat) (v : Word) : (memWrite off n v s).Inv := by
  obtain ⟨-, hw⟩ | ⟨-, hw⟩ | ⟨_, -, -, -, hw⟩ | ⟨_, -, -, -, hw⟩ | ⟨i, -, -, -, hw⟩ | ⟨r, -, -, -, hw⟩ :=
    memWrite_cases off n v s <;> rw [hw]
  · exact h.raiseError .badAccess
  · exact h.writeStatus v
  · exact h.raiseError .busyWrite
  · exact h.raiseError .illegalCmd
  · exact h.accept i
  · exact h.writeReg r v

theorem State.Inv.readUse (h : s.Inv) (use : ReadUse) (w : Word) : (use.run w s).Inv := by
  obtain ⟨n, hu⟩ | hu | ⟨_, _, _, -, hu⟩ := use.run_cases w s <;> rw [hu]
  · exact h.setVal n w
  · exact h
  · exact h

theorem State.Inv.performEvent (h : s.Inv) {e : Event} (he : performEvent e s = .next t) : t.Inv := by
  obtain ⟨off, n, v, -, rfl⟩ | ⟨off, n, use, -, rfl⟩ := performEvent_cases he
  · exact h.memWrite off n v
  · exact (h.memRead off n).readUse use _

/-! ### Reset and step -/

/-- Settles O40: each clause by the values at reset. -/
theorem resetMeetsInvariant : Obligations.ResetMeetsInvariant := ⟨rfl, rfl, fun _ => rfl, rfl⟩

/-- Settles O41: by what a step can be, each kind of step from the operations it is made of. -/
theorem stepKeepsInvariant : Obligations.StepKeepsInvariant := by
  intro s t h hs
  obtain ⟨-, rfl⟩ | ⟨i, hturn, hx⟩ | ⟨-, -, rfl⟩ | ⟨e, rest, -, -, he⟩ := step_cases hs
  · exact h.resetUnit
  · obtain ⟨-, hdue⟩ := State.turn_eq_unit.mp hturn
    obtain ⟨hdelay, -⟩ := State.due_eq_some.mp hdue
    exact h.passStep.exec hdelay hx
  · exact h.passStep.tick
  · exact (h.passStep.takeEvent rest).performEvent he

end Sys2Proof.Machine
end

section
/-!
PROOFS. Single turns of the machine (spec/10_state.md R29, R33, R34): a due command's completion, the host line that
starts one, and what a step does to a recorded error.
-/

namespace Sys2Proof.Machine

variable {s t : State}

/-! ### The step of a due command -/

/-- With no reset to come, a step passed is the state itself. -/
theorem State.passStep_of_no_resets (h : s.resets = []) : s.passStep = s := by
  have hc : countDown s.resets = s.resets := by rw [h]; rfl
  rw [State.passStep, hc]

/-- Settles O43: the due command's turn. -/
theorem stepRunsPendingCommand : Obligations.StepRunsPendingCommand := by
  intro s i hp hd hr
  have hstep : step s = exec i s.passStep := step_of_unit hr (State.due_eq_some.mpr ⟨hd, hp⟩)
  exact ⟨hstep, fun h => by rw [hstep, State.passStep_of_no_resets h]⟩

/-- The word of a command placed is that command pending, due, with a reset asserted now put off. -/
theorem State.withFetchWord_encode (s : State) (i : Instr) :
    s.withFetchWord 32 (encode i).toNat =
      { s with pending := some i, busy := true, delay := 0, resets := postpone s.resets } := by
  simp [State.withFetchWord, State.placeCommand]

/-- Settles O44: the placed command is due, and the reset put off comes one step nearer again. -/
theorem stepRunsPlacedWord : Obligations.StepRunsPlacedWord := by
  intro s i
  rw [State.withFetchWord_encode,
    step_of_unit (State.resetDue_eq_false.mpr (postpone_head s.resets)) (State.due_eq_some.mpr ⟨rfl, rfl⟩)]
  simp [State.passStep]

/-! ### The line that starts a command -/

/-- The line `cmd` while idle is the acceptance of its command (R33, R164). -/
theorem performEvent_cmd (i : Instr) (h : s.busy = false) :
    performEvent (.line (.cmd i)) s = .next (s.accept i) :=
  congrArg _ (memWrite_cmd_accept (decode_encode i) h)

/-- Settles O45: the host's turn of an idle unit, its event the acceptance. -/
theorem hostLineStartsCommand : Obligations.HostLineStartsCommand := by
  rintro s i rest ⟨hp, hb⟩ hr hi
  rw [step_of_host_cons (State.turn_of_idle hp hr) hi]
  exact performEvent_cmd (s := s.passStep.takeEvent rest) i hb

/-! ### A recorded error -/

/-- A second error keeps the recorded one's code (R183). -/
theorem State.raiseError_keeps (h : s.err = true) (c : ErrorCode) :
    (s.raiseError c).err = true ∧ (s.raiseError c).ecode = s.ecode :=
  ⟨rfl, if_pos h⟩

/-- A read and the use of its word keep a recorded error. -/
theorem readUse_memRead_keeps_error (h : s.err = true) (use : ReadUse) (w : Word) (off : BitVec 9) (n : Nat) :
    (use.run w (memRead off n s).2).err = true ∧ (use.run w (memRead off n s).2).ecode = s.ecode := by
  have read : (memRead off n s).2.err = true ∧ (memRead off n s).2.ecode = s.ecode := by
    obtain hr | hr | hr := memRead_frame off n s <;> rw [hr]
    · exact ⟨h, rfl⟩
    · exact ⟨h, rfl⟩
    · exact State.raiseError_keeps h .badAccess
  obtain ⟨_, hu⟩ | hu | ⟨_, _, _, -, hu⟩ := use.run_cases w (memRead off n s).2 <;> rw [hu] <;> exact read

/-- A write keeps a recorded error, unless it is one to `STATUS` with bit 1 set (R28, R29). -/
theorem memWrite_error_cases (h : s.err = true) (off : BitVec 9) (n : Nat) (v : Word) :
    ((memWrite off n v s).err = true ∧ (memWrite off n v s).ecode = s.ecode) ∨
    (accessTarget off n = some .status ∧ v.getLsbD 1 = true ∧ memWrite off n v s = s.clearError) := by
  obtain ⟨-, hw⟩ | ⟨htarget, hw⟩ | ⟨_, -, -, -, hw⟩ | ⟨_, -, -, -, hw⟩ | ⟨i, -, -, -, hw⟩ | ⟨r, -, -, -, hw⟩ :=
    memWrite_cases off n v s
  · exact .inl (hw ▸ State.raiseError_keeps h .badAccess)
  · obtain ⟨hbit, hs⟩ | ⟨-, hs⟩ := s.writeStatus_cases v
    · exact .inr ⟨htarget, hbit, hw.trans hs⟩
    · rw [hw, hs]
      exact .inl ⟨h, rfl⟩
  · exact .inl (hw ▸ State.raiseError_keeps h .busyWrite)
  · exact .inl (hw ▸ State.raiseError_keeps h .illegalCmd)
  · rw [hw]
    exact .inl ⟨h, rfl⟩
  · obtain ⟨-, herr, hecode, -⟩ := s.writeReg_frame r v
    rw [hw, herr, hecode]
    exact .inl ⟨h, rfl⟩

/-- Settles O50: by what a step can be, only a reset and the `STATUS` write among the host's events clear the error. -/
theorem recordedErrorStaysUntilCleared : Obligations.RecordedErrorStaysUntilCleared := by
  intro s t h hs
  obtain ⟨hreset, rfl⟩ | ⟨i, -, hx⟩ | ⟨-, -, rfl⟩ | ⟨e, rest, hturn, hinputs, he⟩ := step_cases hs
  · exact .inr ⟨rfl, rfl, .inl (State.turn_eq_reset.mpr hreset)⟩
  · obtain ⟨-, -, herr, hecode, -⟩ := exec_completed hx
    exact .inl ⟨herr.trans h, hecode⟩
  · exact .inl ⟨h, rfl⟩
  · obtain ⟨off, n, v, hevent, rfl⟩ | ⟨off, n, use, -, rfl⟩ := performEvent_cases he
    · refine (memWrite_error_cases (s := s.passStep.takeEvent rest) h off n v).imp id ?_
      rintro ⟨htarget, hbit, hw⟩
      rw [hw]
      refine ⟨rfl, rfl, .inr ⟨hturn, v, rest, hbit, ?_⟩⟩
      rw [hinputs]
      exact (event_of_write_target hevent htarget).imp (congrArg (· :: rest)) (congrArg (· :: rest))
    · exact .inl (readUse_memRead_keeps_error (s := s.passStep.takeEvent rest) h use _ off n)

end Sys2Proof.Machine
end

section
/-!
PROOFS. A pending command until it completes (spec/10_state.md R34, R35; spec/70_reset_and_hazards.md R206, R208): what
no access and no cycle changes while it is pending, and the run to its completion.
-/

namespace Sys2Proof.Machine

variable {s t : State}

/-! ### What stays while a command is pending -/

/-- A state without what a host access may change while a command is pending: the data registers, the command, its delay
and the resets to come stand in it. -/
def State.pendingView (s : State) : State :=
  { s with inputs := [], vals := [], err := false, ecode := 0, cmdLast := false, draws := 0 }

theorem State.SameData.trans {u : State} (h : s.SameData t) (h' : t.SameData u) : s.SameData u := by
  obtain ⟨msg, dig, seed, lo, hi⟩ := h
  obtain ⟨msg', dig', seed', lo', hi'⟩ := h'
  exact ⟨msg.trans msg', dig.trans dig', seed.trans seed', lo.trans lo', hi.trans hi'⟩

theorem State.sameData_of_pendingView (h : t.pendingView = s.pendingView) : s.SameData t :=
  ⟨(congrArg State.msg h).symm, (congrArg State.dig h).symm, (congrArg State.seed h).symm,
    (congrArg State.lcgLo h).symm, (congrArg State.lcgHi h).symm⟩

@[simp] theorem State.raiseError_pendingView (s : State) (c : ErrorCode) :
    (s.raiseError c).pendingView = s.pendingView := rfl

@[simp] theorem State.takeEvent_pendingView (s : State) (rest : List Event) :
    (s.takeEvent rest).pendingView = s.tick.pendingView := rfl

@[simp] theorem State.writeStatus_pendingView (s : State) (v : Word) :
    (s.writeStatus v).pendingView = s.pendingView := by
  obtain ⟨-, h⟩ | ⟨-, h⟩ := s.writeStatus_cases v <;> rw [h]
  rfl

@[simp] theorem memRead_pendingView (off : BitVec 9) (n : Nat) (s : State) :
    (memRead off n s).2.pendingView = s.pendingView := by
  obtain h | h | h := memRead_frame off n s <;> rw [h]
  · rfl
  · rfl

@[simp] theorem ReadUse.run_pendingView (use : ReadUse) (w : Word) (s : State) :
    (use.run w s).pendingView = s.pendingView := by
  obtain ⟨_, h⟩ | h | ⟨_, _, _, -, h⟩ := use.run_cases w s <;> rw [h]
  · rfl
  · rfl

/-- A write while busy is an error or one to `STATUS` (R206). -/
theorem memWrite_pendingView (hb : s.busy = true) (off : BitVec 9) (n : Nat) (v : Word) :
    (memWrite off n v s).pendingView = s.pendingView := by
  obtain ⟨-, h⟩ | ⟨-, h⟩ | ⟨_, -, -, -, h⟩ | ⟨_, -, hidle, -⟩ | ⟨_, -, hidle, -⟩ | ⟨_, -, -, hidle, -⟩ :=
    memWrite_cases off n v s
  · rw [h, State.raiseError_pendingView]
  · rw [h, State.writeStatus_pendingView]
  · rw [h, State.raiseError_pendingView]
  all_goals rw [hb] at hidle; cases hidle

/-- No event of the host changes anything of a pending command (R35). -/
theorem performEvent_pendingView (hb : s.busy = true) {e : Event} (h : performEvent e s = .next t) :
    t.pendingView = s.pendingView := by
  obtain ⟨off, n, v, -, rfl⟩ | ⟨off, n, use, -, rfl⟩ := performEvent_cases h
  · exact memWrite_pendingView hb off n v
  · rw [ReadUse.run_pendingView, memRead_pendingView]

/-- With delay left and no reset asserted it is the host's turn. -/
theorem State.turn_of_delay (hd : s.delay ≠ 0) (hr : s.resetDue = false) : s.turn = .host :=
  State.turn_eq_host.mpr ⟨hr, State.due_eq_none.mpr (.inl hd)⟩

/-- Until its completion or a reset, a step does to a pending command what a cycle without an access does. -/
theorem step_pendingView (hb : s.busy = true) (hd : s.delay ≠ 0) (hr : s.resetDue = false) (h : step s = .next t) :
    t.pendingView = s.passStep.tick.pendingView := by
  obtain ⟨hreset, -⟩ | ⟨_, hturn, -⟩ | ⟨-, -, rfl⟩ | ⟨e, rest, -, -, he⟩ := step_cases h
  · rw [hr] at hreset; cases hreset
  · rw [State.turn_of_delay hd hr] at hturn; cases hturn
  · rfl
  · have view : t.pendingView = (s.passStep.takeEvent rest).pendingView := performEvent_pendingView hb he
    rw [view, State.takeEvent_pendingView]

/-- Settles O46: the step is, for the command, a cycle without an access. -/
theorem operandsFrozenWhileBusy : Obligations.OperandsFrozenWhileBusy := by
  intro s t i hp hb hd hr h
  have view := step_pendingView hb hd hr h
  have delay : t.delay = s.delay - 1 := congrArg State.delay view
  exact ⟨State.sameData_of_pendingView (s := s.passStep.tick) view, (congrArg State.pending view).trans hp,
    (congrArg State.busy view).trans hb, by omega⟩

/-! ### Accesses inside the window -/

theorem windowOffset_of_lt {off : Nat} (h : off < 0x200) : windowOffset off = some (BitVec.ofNat 9 off) := by
  simp [windowOffset, h]

/-- An event that does not leave the window answers a next state (R54). -/
theorem performEvent_of_ordinary {e : Event} (h : e.ordinary = true) (s : State) : ∃ t, performEvent e s = .next t := by
  cases e with
  | line hl =>
    cases hl with
    | wr off _ | rd off _ | poll off _ _ =>
      have hoff : off < 0x200 := of_decide_eq_true h
      simp [performEvent, performLine, hostWrite, hostRead, windowOffset_of_lt hoff]
  | read addr n dst =>
    obtain ⟨off, hoff⟩ := Option.isSome_iff_exists.mp h
    simp [performEvent, hostRead, hoff]
  | write addr n v =>
    obtain ⟨off, hoff⟩ := Option.isSome_iff_exists.mp h
    simp [performEvent, hostWrite, hoff]

/-- An event is done, or stands before the rest again (R165). -/
theorem performEvent_inputs {e : Event} (h : performEvent e s = .next t) :
    t.inputs = s.inputs ∨ t.inputs = e :: s.inputs := by
  obtain ⟨off, n, v, -, rfl⟩ | ⟨off, n, use, huse, rfl⟩ := performEvent_cases h
  · exact .inl (memWrite_frame off n v s).1
  · have read : (memRead off n s).2.inputs = s.inputs := by
      obtain h | h | h := memRead_frame off n s <;> rw [h] <;> rfl
    obtain ⟨_, hu⟩ | hu | ⟨o, mask, val, htest, hu⟩ := use.run_cases (memRead off n s).1 (memRead off n s).2
    · exact .inl (by rw [hu, State.setVal_inputs, read])
    · exact .inl (by rw [hu, read])
    · obtain ⟨rfl, -⟩ := huse o mask val htest
      exact .inr (by rw [hu, State.pushInput_inputs, read])

/-- With accesses inside the window to come, a host's turn answers a next state, with accesses inside the window to
come. -/
theorem step_of_host_ordinary (hturn : s.turn = .host) (ho : ∀ e ∈ s.inputs, e.ordinary = true) :
    ∃ t, step s = .next t ∧ ∀ e ∈ t.inputs, e.ordinary = true := by
  cases hi : s.inputs with
  | nil => exact ⟨_, step_of_host_nil hturn hi, by simp [hi]⟩
  | cons e rest =>
    rw [hi] at ho
    obtain ⟨t, ht⟩ := performEvent_of_ordinary (ho e List.mem_cons_self) (s.passStep.takeEvent rest)
    refine ⟨t, (step_of_host_cons hturn hi).trans ht, ?_⟩
    obtain h | h := performEvent_inputs ht <;> rw [h]
    · exact fun e' he' => ho e' (List.mem_cons_of_mem e he')
    · exact ho

/-! ### The run to the completion -/

/-- A command leaves the same data registers from states that hold the same (R36). -/
theorem exec_sameData {i : Instr} {s s' t t' : State} (hs : s.SameData s') (h : exec i s = .next t)
    (h' : exec i s' = .next t') : t.SameData t' := by
  obtain ⟨msg, dig, seed, lo, hi⟩ := hs
  have lcg : s.lcg = s'.lcg := by rw [State.lcg, State.lcg, lo, hi]
  have dig' : t.dig = t'.dig := lanes_ext fun k => by rw [exec_dig h, exec_dig h', msg, dig]
  refine ⟨?_, dig', lanes_ext fun k => ?_, ?_, ?_⟩
  · rw [exec_msg h, exec_msg h', msg]
  · rw [exec_seed_lane h, exec_seed_lane h', dig', seed]
  · rw [exec_lcgLo h, exec_lcgLo h', lcg, lo]
  · rw [exec_lcgHi h, exec_lcgHi h', lcg, hi]

/-- No reset that is to come after the completion is asserted now. -/
theorem State.resetDue_of_lt {n : Nat} (h : ∀ m, s.resets.head? = some m → n < m) : s.resetDue = false :=
  State.resetDue_eq_false.mpr fun h0 => Nat.not_lt_zero n (h 0 h0)

/-- One step later a reset to come after the completion still is. -/
theorem countDown_head_gt {rs : List Nat} {n : Nat} (h : ∀ m, rs.head? = some m → n + 1 < m) :
    ∀ m, (countDown rs).head? = some m → n < m := by
  intro m hm
  rw [countDown_head, Option.map_eq_some_iff] at hm
  obtain ⟨k, hk, rfl⟩ := hm
  have := h k hk
  omega

/-- Command `i` is pending and nothing to come keeps it from its completion: no access outside the window, which the
model refuses, and no reset before it. -/
structure State.Completing (s : State) (i : Instr) : Prop where
  pending : s.pending = some i
  busy : s.busy = true
  ordinary : ∀ e ∈ s.inputs, e.ordinary = true
  resets : ∀ n, s.resets.head? = some n → s.delay < n

/-- With delay left, a command bound to complete still is after a step that leaves its operands and one delay less. -/
theorem State.Completing.step_of_delay {i : Instr} (h : s.Completing i) (hd : s.delay ≠ 0) :
    ∃ t, step s = .next t ∧ t.Completing i ∧ s.SameData t ∧ t.delay + 1 = s.delay := by
  have hr := State.resetDue_of_lt h.resets
  obtain ⟨t, ht, ordinary⟩ := step_of_host_ordinary (State.turn_of_delay hd hr) h.ordinary
  obtain ⟨data, pending, busy, delay⟩ := operandsFrozenWhileBusy s t i h.pending h.busy hd hr ht
  have resets : t.resets = countDown s.resets := congrArg State.resets (step_pendingView h.busy hd hr ht)
  refine ⟨t, ht, ⟨pending, busy, ordinary, ?_⟩, data, delay⟩
  rw [resets]
  exact countDown_head_gt (delay ▸ h.resets)

/-- With its delay run out, a command bound to complete is completed by the step. -/
theorem State.Completing.step_of_due {i : Instr} (h : s.Completing i) (hd : s.delay = 0) :
    step s = exec i s.passStep :=
  step_of_unit (State.resetDue_of_lt h.resets) (State.due_eq_some.mpr ⟨hd, h.pending⟩)

/-- A command bound to complete does so when its delay has passed, with the results of its operands of now. -/
theorem State.Completing.run {i : Instr} {u : State} (h : s.Completing i) (hu : exec i s = .next u) :
    ∃ t, Sys2Proof.core.run (s.delay + 1) s = .next t ∧ u.SameData t ∧ t.pending = none ∧ t.busy = false := by
  induction hn : s.delay generalizing s u with
  | zero =>
    obtain ⟨t, ht, pending, busy, -⟩ := exec_next i s.passStep
    have data : u.SameData t := exec_sameData (s := s) (s' := s.passStep) ⟨rfl, rfl, rfl, rfl, rfl⟩ hu ht
    exact ⟨t, core_run_of_next ((h.step_of_due hn).trans ht) 0, data, pending, busy⟩
  | succ n ih =>
    obtain ⟨s₁, hs₁, h₁, same, delay⟩ := h.step_of_delay (by omega)
    obtain ⟨u₁, hu₁, -⟩ := exec_next i s₁
    obtain ⟨t, ht, data, pending, busy⟩ := ih h₁ hu₁ (by omega)
    exact ⟨t, (core_run_of_next hs₁ (n + 1)).trans ht, (exec_sameData same hu hu₁).trans data, pending, busy⟩

/-- Settles O47: the pending command is bound to complete. -/
theorem commandCompletesFromAcceptedValues : Obligations.CommandCompletesFromAcceptedValues := by
  intro s i pending busy ordinary resets
  obtain ⟨u, hu, -⟩ := exec_next i s
  obtain ⟨t, ht, data, hpending, hbusy⟩ := State.Completing.run ⟨pending, busy, ordinary, resets⟩ hu
  exact ⟨t, u, ht, hu, data, hpending, hbusy⟩

end Sys2Proof.Machine
end

section
/-!
PROOFS. The register window (spec/20_memory.md R51 to R57): the offset decode as the register map, the bytes the window
carries, and what an idle access to a register of the map does.
-/

namespace Sys2Proof.Machine

/-! ### Offsets and byte lanes -/

/-- A 4-byte access at an aligned offset reaches what the offset decodes to (R53, R55). -/
theorem accessTarget_of_aligned {off : BitVec 9} (h : off.toNat % 4 = 0) : accessTarget off 4 = decodeOff off := by
  have aligned : off.extractLsb' 0 2 = 0 := BitVec.eq_of_toNat_eq (by simpa [BitVec.extractLsb'_toNat] using h)
  exact if_pos ⟨rfl, aligned⟩

/-- Settles O5: the decode inverts the register map, and it is RESERVED where an aligned access is a bad one. -/
theorem offsetDecodeIsTheRegisterMap : Obligations.OffsetDecodeIsTheRegisterMap := by
  refine ⟨fun l i => decodeOff_offset (.msg l i), fun l j => decodeOff_offset (.dig l j),
    fun l => decodeOff_offset (.seed l), decodeOff_offset .lcgLo, decodeOff_offset .lcgHi, decodeOff_offset .cmd,
    decodeOff_offset .status, fun off aligned => ?_⟩
  rw [← accessTarget_of_aligned aligned, accessTarget_eq_none]

/-- The offset of each byte of a register, its two low bits cleared, is the register's own (R57). -/
theorem Reg.offset_of_byte (r : Reg) (k : Fin 4) :
    (BitVec.ofNat 9 (r.offset + k.val)).extractLsb' 2 7 ++ (0 : BitVec 2) = BitVec.ofNat 9 r.offset := by
  have inWindow := r.offset_lt
  have aligned := r.offset_aligned
  apply BitVec.eq_of_toNat_eq
  simp only [toNat_append_eq_add, BitVec.extractLsb'_toNat, Nat.shiftRight_eq_div_pow, BitVec.toNat_ofNat,
    BitVec.ofNat_eq_ofNat]
  omega

/-- The two low bits of the offset of a register's byte are the byte's lane (R57). -/
theorem Reg.lane_of_byte (r : Reg) (k : Fin 4) :
    ((BitVec.ofNat 9 (r.offset + k.val)).extractLsb' 0 2).toNat = k.val := by
  have aligned := r.offset_aligned
  simp only [BitVec.extractLsb'_toNat, Nat.shiftRight_zero, BitVec.toNat_ofNat]
  omega

/-- The window carries byte `k` of a register at the register's offset plus `k` (R57). -/
theorem State.windowByte_offset (s : State) (r : Reg) (k : Fin 4) :
    s.windowByte (BitVec.ofNat 9 (r.offset + k.val)) = some (busByte (s.readReg r) k.val) := by
  rw [State.windowByte, r.offset_of_byte, r.lane_of_byte, decodeOff_offset, Option.map_some]

/-- A bit of a byte lane is a bit of the word. -/
theorem busByte_bit (w : Word) (k : Nat) (m : Fin 8) : (busByte w k).getLsbD m.val = w.getLsbD (8 * k + m.val) := by
  rw [busByte, BitVec.getLsbD_extractLsb', decide_eq_true m.isLt, Bool.true_and]

/-- Settles O6: the byte carried is the register's byte lane. -/
theorem byteLanesAreLittleEndian : Obligations.ByteLanesAreLittleEndian :=
  fun s r k => ⟨_, s.windowByte_offset r k, busByte_bit (s.readReg r) k.val⟩

/-! ### Idle accesses to a register -/

/-- An idle read of a register is its value and changes nothing (R160). -/
theorem memRead_idle (r : Reg) {s : State} (hs : s.busy = false) :
    memRead (BitVec.ofNat 9 r.offset) 4 s = (s.readReg r, s) := by
  simp [memRead, hs]

/-- An idle write to a data register is the register write alone (R161). -/
theorem memWrite_idle_data {r : Reg} (hr : r.isData = true) (v : Word) {s : State} (hs : s.busy = false) :
    memWrite (BitVec.ofNat 9 r.offset) 4 v s = s.writeReg r v := by
  rw [memWrite, accessTarget_offset]
  cases r with
  | cmd | status => cases hr
  | _ => simp [hs]

end Sys2Proof.Machine
end

section
/-!
PROOFS. Where the window stands in the host's address space (spec/20_memory.md R50, R54) and what the host's lines and
addressed accesses do inside it and outside it (spec/42_host_access.md R160, R161, R163).
-/

namespace Sys2Proof.Machine

/-! ### Addresses -/

/-- `BASE` is aligned to the window's size (R50). -/
theorem base_aligned : Config.base % 0x200 = 0 := Nat.mul_mod_right 0x200 Config.baseIndex

/-- The address at a window offset has that offset, and no other address has (R50). -/
theorem addressOffset_eq_some_iff {base addr : Nat} {off : BitVec 9} :
    addressOffset base addr = some off ↔ addr = base + off.toNat := by
  refine ⟨addressOffset_eq_some, ?_⟩
  rintro rfl
  rw [addressOffset_base, windowOffset_of_lt off.isLt, BitVec.ofNat_toNat, BitVec.setWidth_eq]

/-- An address has a window offset exactly where it lies in the window (R50, R54). -/
theorem addressOffset_eq_some_iff_bounds {base addr : Nat} {off : BitVec 9} :
    addressOffset base addr = some off ↔ base ≤ addr ∧ addr < base + 0x200 ∧ off.toNat = addr - base := by
  have inWindow := off.isLt
  rw [addressOffset_eq_some_iff]
  omega

/-- An address below or above the window has no window offset (R54). -/
theorem addressOffset_of_outside {base addr : Nat} (h : addr < base ∨ base + 0x200 ≤ addr) :
    addressOffset base addr = none := by
  refine Option.eq_none_iff_forall_ne_some.mpr fun off hoff => ?_
  obtain ⟨low, high, -⟩ := addressOffset_eq_some_iff_bounds.mp hoff
  omega

/-- An offset past the window is none of it (R54). -/
theorem windowOffset_of_le {off : Nat} (h : 0x200 ≤ off) : windowOffset off = none :=
  if_neg (Nat.not_lt.mpr h)

/-! ### Accesses outside the window -/

/-- A line whose offset is past the window is refused, whichever line it is (R54). -/
theorem performLine_of_outside {h : HostLine} (hoff : 0x200 ≤ h.off) (s : State) :
    performLine h s = .refused (.outsideWindow h.off) := by
  cases h with
  | wr off _ | rd off _ | poll off _ _ =>
    have outside : windowOffset off = none := windowOffset_of_le hoff
    simp [performLine, hostWrite, hostRead, outside, HostLine.off]

/-- Settles O54: the step performs the next event, and that is refused. -/
theorem outsideWindowIsRefused : Obligations.OutsideWindowIsRefused := by
  refine fun s rest turn => ⟨fun h hoff hi => ?_, fun addr n dst haddr hi => ?_, fun addr n v haddr hi => ?_⟩ <;>
    rw [step_of_host_cons turn hi]
  · exact performLine_of_outside hoff _
  · rw [performEvent, addressOffset_of_outside haddr, hostRead]
  · rw [performEvent, addressOffset_of_outside haddr, hostWrite]

/-! ### Accesses inside the window -/

section

variable {e : Event} {off n : Nat} (hoff : off < 0x200)
include hoff

/-- A write in the window, by its address or as a `wr` line, is `MemWrite` at its offset (R161, R163). -/
theorem performEvent_write {v : Word} (he : e = .write (Config.base + off) n v ∨ n = 4 ∧ e = .line (.wr off v))
    (s : State) : performEvent e s = .next (memWrite (BitVec.ofNat 9 off) n v s) := by
  obtain rfl | ⟨rfl, rfl⟩ := he
  · rw [performEvent, addressOffset_base, windowOffset_of_lt hoff, hostWrite]
  · rw [performEvent, performLine, windowOffset_of_lt hoff, hostWrite]

/-- A read in the window, by its address or as an `rd` line, is `MemRead` at its offset, its word kept as a host value
(R160, R163). -/
theorem performEvent_read {dst : Nat} (he : e = .read (Config.base + off) n dst ∨ n = 4 ∧ e = .line (.rd off dst))
    (s : State) :
    performEvent e s =
      .next ((memRead (BitVec.ofNat 9 off) n s).2.setVal dst (memRead (BitVec.ofNat 9 off) n s).1) := by
  obtain rfl | ⟨rfl, rfl⟩ := he
  · rw [performEvent, addressOffset_base, windowOffset_of_lt hoff, hostRead]
  · rw [performEvent, performLine, windowOffset_of_lt hoff, hostRead]

end

/-- A read changes no host value of itself. -/
@[simp] theorem memRead_vals (off : BitVec 9) (n : Nat) (s : State) : (memRead off n s).2.vals = s.vals := by
  obtain h | h | h := memRead_frame off n s <;> simp [h]

/-- Settles O55: each clause by the lemma on addresses, on writes, on reads and on the host's step. -/
theorem windowIsPlacedAtBase : Obligations.WindowIsPlacedAtBase := by
  refine ⟨base_aligned, fun addr off => addressOffset_eq_some_iff_bounds,
    fun e off n v s hoff he => performEvent_write hoff he s,
    fun e off n dst s hoff he => ⟨_, performEvent_read hoff he s, ?_, fun k hk => ?_, rfl⟩,
    fun s e rest turn hi => step_of_host_cons turn hi⟩
  · rw [State.setVal_vals, HostVals.get_put_same]
  · rw [State.setVal_vals, HostVals.get_put_other _ _ _ _ hk, memRead_vals]

/-! ### The write of a data register -/

/-- A register write leaves every other register, the pending command, `BUSY` and the host's side as they were (R60). -/
theorem State.writeReg_leaves (s : State) (r : Reg) (v : Word) :
    (∀ k : Reg, k ≠ r → (s.writeReg r v).readReg k = s.readReg k) ∧
      (s.writeReg r v).pending = s.pending ∧ (s.writeReg r v).busy = s.busy ∧
      (s.writeReg r v).inputs = s.inputs ∧ (s.writeReg r v).resets = s.resets ∧ (s.writeReg r v).vals = s.vals ∧
      (s.writeReg r v).cmdLast = s.cmdLast ∧ (s.writeReg r v).delay = s.delay ∧ (s.writeReg r v).draws = s.draws := by
  obtain ⟨busy, -, -, pending, inputs, vals, delay, draws, resets, cmdLast⟩ := s.writeReg_frame r v
  exact ⟨fun k hk => s.readReg_writeReg_other r k v hk, pending, busy, inputs, resets, vals, cmdLast, delay, draws⟩

/-- An event that writes a data register while idle is the register write alone (R161, R163). -/
theorem performEvent_write_data {e : Event} {r : Reg} {v : Word} (hr : r.isData = true)
    (he : e = .line (.wrReg r v) ∨ e = .write (Config.base + r.offset) 4 v) {s : State} (hs : s.busy = false) :
    performEvent e s = .next (s.writeReg r v) := by
  have write : e = .write (Config.base + r.offset) 4 v ∨ 4 = 4 ∧ e = .line (.wr r.offset v) :=
    he.symm.imp_right fun h => ⟨rfl, h⟩
  rw [performEvent_write r.offset_lt write, memWrite_idle_data hr v hs]

/-- The host's turn begins with every register as it was. -/
theorem State.readReg_takeEvent (s : State) (rest : List Event) (k : Reg) :
    (s.passStep.takeEvent rest).readReg k = s.readReg k := by
  cases k <;> rfl

/-- Settles O38: the write is the register write, from the state itself and from the one the host's turn begins in. -/
theorem idleWriteSetsOneRegister : Obligations.IdleWriteSetsOneRegister := by
  intro s r v hs hr
  constructor
  · have busy : (s.writeReg r v).busy = false := (s.writeReg_frame r v).1.trans hs
    refine ⟨s.writeReg r v, memWrite_idle_data hr v hs, ?_, s.writeReg_leaves r v⟩
    rw [memRead_idle r busy, s.readReg_writeReg_same r v hr]
  · intro e rest turn hi he
    refine ⟨(s.passStep.takeEvent rest).writeReg r v, ?_, State.readReg_writeReg_same _ r v hr, ?_⟩
    · rw [step_of_host_cons turn hi]
      exact performEvent_write_data hr he hs
    · obtain ⟨others, frame⟩ := (s.passStep.takeEvent rest).writeReg_leaves r v
      exact ⟨fun k hk => (others k hk).trans (s.readReg_takeEvent rest k), frame⟩

end Sys2Proof.Machine
end

section
/-!
PROOFS. The command encoding (spec/30_encoding.md R71 to R77): a word with `RSV = 0` is the word of its two fields, and
the decoder reads a command from exactly the word that encodes it; from that, which words are legal.
-/

namespace Sys2Proof

/-! ### The fields of a word -/

/-- Field `OP` as a number (R71). -/
theorem opField_toNat (c : Word) : (opField c).toNat = c.toNat % 16 := by
  simp [opField]

/-- Field `LANE` as a number (R72). -/
theorem laneField_val (c : Word) : (laneField c).val = c.toNat / 16 % 4 := by
  simp [laneField, Nat.shiftRight_eq_div_pow]

/-- The word of format C as a number (R71). -/
theorem formatC_toNat : ∀ (op : BitVec 4) (l : Lane), (formatC op l).toNat = op.toNat + 16 * l.val := by
  decide +kernel

/-- A word with `RSV = 0` is the word of format C of its fields (R71). -/
theorem formatC_fields {c : Word} (h : rsvField c = 0) : formatC (opField c) (laneField c) = c := by
  have below := (rsvField_eq_zero c).mp h
  apply BitVec.eq_of_toNat_eq
  rw [formatC_toNat, opField_toNat, laneField_val]
  omega

/-- A word with `RSV = 0` is the word of format C of its `OP`, given as a number, and its `LANE`. -/
theorem eq_formatC_of_op {c : Word} {op : Nat} (rsv : rsvField c = 0) (h : (opField c).toNat = op) :
    c = formatC (BitVec.ofNat 4 op) (laneField c) := by
  rw [← h, BitVec.ofNat_toNat, BitVec.setWidth_eq, formatC_fields rsv]

/-! ### What the decoder answers -/

/-- A command that names no lane is read exactly where `LANE = 0`. -/
theorem unlaned_eq_command {l : Lane} {i j : Instr} : unlaned l i = .command j ↔ l = 0 ∧ i = j := by
  by_cases hl : l = 0 <;> simp [unlaned, hl]

/-- A command that names no lane is illegal exactly where `LANE` is not 0 (R75). -/
theorem unlaned_illegal_iff {l : Lane} {i : Instr} : (∃ why, unlaned l i = .illegal why) ↔ l ≠ 0 := by
  by_cases hl : l = 0 <;> simp [unlaned, hl]

/-- A word that is read as a command has `RSV = 0` (R74). -/
theorem rsvField_of_decode {c : Word} {i : Instr} (h : decode c = .command i) : rsvField c = 0 := by
  by_contra reserved
  rw [decode_of_rsv reserved] at h
  cases h

/-- A word that is read as a command is the word that encodes it (R74, R77). -/
theorem eq_encode_of_decode {c : Word} {i : Instr} (h : decode c = .command i) : c = encode i := by
  have rsv := rsvField_of_decode h
  rw [decode, if_neg (not_not_intro rsv)] at h
  split at h
  case h_1 op | h_3 op | h_5 op =>
    cases h
    exact eq_formatC_of_op rsv op
  case h_2 op | h_4 op | h_6 op | h_7 op =>
    obtain ⟨lane, rfl⟩ := unlaned_eq_command.mp h
    have word := eq_formatC_of_op rsv op
    rwa [lane] at word
  case h_8 => cases h

/-- Settles O2: the encoded word's fields read back as the command, and a command's word is that of its fields. -/
theorem decodeInvertsEncode : Obligations.DecodeInvertsEncode := by
  intro c i
  constructor
  · exact eq_encode_of_decode
  · rintro rfl
    exact decode_encode i

/-! ### The illegal words -/

/-- The three cases of R75, on the fields of the word. -/
theorem decode_illegal_iff_fields (c : Word) :
    (∃ why, decode c = .illegal why) ↔
      (rsvField c ≠ 0 ∨ (opField c).toNat = 0 ∨ 8 ≤ (opField c).toNat ∨
        (((opField c).toNat = 2 ∨ (opField c).toNat = 4 ∨ (opField c).toNat = 6 ∨ (opField c).toNat = 7) ∧
          laneField c ≠ 0)) := by
  by_cases rsv : rsvField c = 0
  · rw [decode, if_neg (not_not_intro rsv)]
    split
    case h_1 op | h_3 op | h_5 op => simp [rsv, op]
    case h_2 op | h_4 op | h_6 op | h_7 op => simp [rsv, op, unlaned_illegal_iff]
    case h_8 =>
      have noOp : (opField c).toNat = 0 ∨ 8 ≤ (opField c).toNat := by
        simp only [imp_false] at *
        omega
      exact iff_of_true ⟨_, rfl⟩ (.inr (noOp.imp_right .inl))
  · exact iff_of_true ⟨_, decode_of_rsv rsv⟩ (.inl rsv)

/-- A 4-byte write of an illegal word to `CMD` while idle raises error 1 and changes nothing else (R75, R181). -/
theorem Machine.memWrite_cmd_illegal {c : Word} {why : Illegal} {s : State} (hc : decode c = .illegal why)
    (hs : s.busy = false) : memWrite 0x1C0 4 c s = s.raiseError .illegalCmd := by
  simp [memWrite, hs, writeCmd, hc]

/-- Settles O3: R75's cases on the fields, each field read off the word as a number, and the write's one branch. -/
theorem illegalWordsAndTheirWrite : Obligations.IllegalWordsAndTheirWrite := by
  refine ⟨fun c => ?_, fun c why s => Machine.memWrite_cmd_illegal⟩
  have rsv : rsvField c ≠ 0 ↔ c.toNat / 64 ≠ 0 := by
    rw [Ne, rsvField_eq_zero]
    omega
  have lane : laneField c ≠ 0 ↔ c.toNat / 16 % 4 ≠ 0 := by
    rw [Ne, Fin.ext_iff, laneField_val, Fin.val_zero]
  rw [decode_illegal_iff_fields, rsv, opField_toNat, lane]

/-! ### The legal words -/

/-- The 16 commands (R73): the four that name no lane, and the three scalar ones of each lane. -/
def Instr.all : List Instr :=
  [.digest4, .seed4, .dseed4, .lcg] ++ (List.finRange 4).flatMap fun l => [.digest l, .seed l, .dseed l]

/-- Every command is one of the 16. -/
theorem Instr.mem_all (i : Instr) : i ∈ Instr.all := by
  cases i <;> simp [Instr.all]

/-- Commands that differ have words that differ. -/
theorem encode_injective : Function.Injective encode := by
  intro i j h
  have same : decode (encode i) = decode (encode j) := congrArg decode h
  rw [decode_encode, decode_encode] at same
  exact Decoded.command.inj same

/-- Settles O4: the legal words are the words of the 16 commands. -/
theorem exactlySixteenLegalWords : Obligations.ExactlySixteenLegalWords := by
  have distinct : Instr.all.Nodup := by decide
  refine ⟨Instr.all.map encode, rfl, distinct.map encode_injective, fun c => ?_⟩
  constructor
  · rintro ⟨i, h⟩
    rw [eq_encode_of_decode h]
    exact List.mem_map_of_mem i.mem_all
  · intro h
    obtain ⟨i, -, rfl⟩ := List.mem_map.mp h
    exact ⟨i, decode_encode i⟩

/-- Settles O1: each word of R77's table is the word of its command. -/
theorem sixteenWordsDecode : Obligations.SixteenWordsDecode :=
  ⟨decode_encode (.digest 0), decode_encode (.digest 1), decode_encode (.digest 2), decode_encode (.digest 3),
    decode_encode .digest4, decode_encode (.seed 0), decode_encode (.seed 1), decode_encode (.seed 2),
    decode_encode (.seed 3), decode_encode .seed4, decode_encode (.dseed 0), decode_encode (.dseed 1),
    decode_encode (.dseed 2), decode_encode (.dseed 3), decode_encode .dseed4, decode_encode .lcg⟩

end Sys2Proof
end

section
/-!
PROOFS. The compression (spec/40_compression.md R101 to R108): the words of the schedule by their number, and the
chaining variables after each round.
-/

namespace Sys2Proof.Machine

/-! ### The expansion of the schedule -/

@[simp] theorem expand_length (n : Nat) (ws : List Word) : (expand n ws).length = ws.length + n := by
  induction n generalizing ws with
  | zero => rfl
  | succ n ih =>
    rw [expand, ih, List.length_cons]
    omega

/-- The last of the words put before is the next of all those so far (R105). -/
theorem expand_succ (n : Nat) (ws : List Word) : expand (n + 1) ws = nextWord (expand n ws) :: expand n ws := by
  induction n generalizing ws with
  | zero => rfl
  | succ n ih => exact ih (nextWord ws :: ws)

/-- A longer expansion has only put more words before. -/
theorem expand_suffix {m n : Nat} (h : m ≤ n) (ws : List Word) : expand m ws <:+ expand n ws := by
  induction n, h using Nat.le_induction with
  | base => exact List.suffix_refl _
  | succ n _ ih =>
    rw [expand_succ]
    exact ih.trans (List.suffix_cons _ _)

/-! ### The words of the schedule -/

/-- `W[t]` (R105). -/
def scheduleWord (B : Block) (t : Nat) : Word := (schedule B).getD t 0

@[simp] theorem schedule_length (B : Block) : (schedule B).length = 80 := by
  simp [schedule]

theorem schedule_getElem? (B : Block) {t : Nat} (ht : t < 80) : (schedule B)[t]? = some (scheduleWord B t) := by
  simp [scheduleWord, ht]

/-- A word of the schedule is there as soon as enough words are. -/
theorem scheduleWord_eq_expand (B : Block) {n t : Nat} (hn : n ≤ 64) (ht : t < 16 + n) :
    scheduleWord B t = (expand n B.toList.reverse).reverse.getD t 0 := by
  have early : (expand n B.toList.reverse).reverse <+: schedule B := List.reverse_prefix.mpr (expand_suffix hn _)
  have there : t < (expand n B.toList.reverse).reverse.length := by simpa using ht
  rw [scheduleWord, List.getD_eq_getElem?_getD, List.getD_eq_getElem?_getD,
    List.prefix_iff_getElem?.mp early t there, List.getElem?_eq_getElem there]

/-- The first 16 words are the block (R105). -/
theorem scheduleWord_block (B : Block) (t : Fin 16) : scheduleWord B t.val = B[t] := by
  rw [scheduleWord_eq_expand B (Nat.zero_le 64) t.isLt]
  simp [expand]

/-- The word `k + 1` before word `16 + n` stands at place `k` of the words so far, the newest first. -/
theorem expand_getD (B : Block) {n k : Nat} (hn : n ≤ 64) (hk : k < 16) :
    (expand n B.toList.reverse).getD k 0 = scheduleWord B (16 + n - (k + 1)) := by
  have length : (expand n B.toList.reverse).length = 16 + n := by simp
  have newest : 16 + n - 1 - (16 + n - (k + 1)) = k := by omega
  rw [scheduleWord_eq_expand B hn (by omega), List.getD_eq_getElem?_getD, List.getD_eq_getElem?_getD,
    List.getElem?_reverse (by omega), length, newest]

/-- The words from word 16 on: the taps 3, 8, 14 and 16 back, rotated left by 1 (R105). -/
theorem scheduleWord_expanded (B : Block) {t : Nat} (h16 : 16 ≤ t) (h80 : t < 80) :
    scheduleWord B t =
      rotl32 (scheduleWord B (t - 3) ^^^ scheduleWord B (t - 8) ^^^ scheduleWord B (t - 14) ^^^
        scheduleWord B (t - 16)) 1 := by
  obtain ⟨n, rfl⟩ := Nat.exists_eq_add_of_le h16
  have hn : n ≤ 64 := by omega
  have newest : scheduleWord B (16 + n) = nextWord (expand n B.toList.reverse) := by
    rw [scheduleWord_eq_expand B (n := n + 1) (by omega) (by omega), expand_succ]
    simp
  rw [newest, nextWord, expand_getD B hn (by decide), expand_getD B hn (by decide), expand_getD B hn (by decide),
    expand_getD B hn (by decide)]

/-- Settles O7: the schedule by its words, `scheduleWord`. -/
theorem scheduleExpandsBlock : Obligations.ScheduleExpandsBlock := by
  refine fun B => ⟨schedule_length B, fun t => ?_, fun t h16 h80 => ?_⟩
  · rw [schedule_getElem? B (by omega), scheduleWord_block]
  · refine ⟨_, _, _, _, schedule_getElem? B (by omega), schedule_getElem? B (by omega),
      schedule_getElem? B (by omega), schedule_getElem? B (by omega), ?_⟩
    rw [schedule_getElem? B h80, scheduleWord_expanded B h16 h80]
    rfl

/-! ### The rounds -/

/-- A last round is run on what those before leave. -/
theorem runRounds_concat (t : Nat) (ws : List Word) (w : Word) (x : Chain) :
    runRounds t (ws ++ [w]) x = roundStep (t + ws.length) w (runRounds t ws x) := by
  induction ws generalizing t x with
  | nil => rfl
  | cons v vs ih =>
    rw [List.cons_append, runRounds, runRounds, ih, List.length_cons]
    congr 1
    omega

/-- The chaining variables after the first `t` rounds (R106, R108). -/
def chainAfter (B : Block) (t : Nat) : Chain := runRounds 0 ((schedule B).take t) ivChain

theorem chainAfter_zero (B : Block) : chainAfter B 0 = ivChain := rfl

theorem chainAfter_succ (B : Block) {t : Nat} (ht : t < 80) :
    chainAfter B (t + 1) = roundStep t (scheduleWord B t) (chainAfter B t) := by
  have one_more : (schedule B).take (t + 1) = (schedule B).take t ++ [scheduleWord B t] := by
    rw [List.take_add_one, schedule_getElem? B ht, Option.toList_some]
  have count : 0 + ((schedule B).take t).length = t := by
    rw [List.length_take, schedule_length]
    omega
  rw [chainAfter, one_more, runRounds_concat, count, chainAfter]

theorem compress_eq_chainAfter (B : Block) : compress B = feedForward (chainAfter B 80) := by
  rw [compress, chainAfter, List.take_of_length_le (schedule_length B).le]

/-! ### The stages -/

/-- The stages are 20 rounds each (R102). -/
theorem stageOf_eq_ite {t : Nat} (ht : t < 80) :
    stageOf t = if t < 20 then 0 else if t < 40 then 1 else if t < 60 then 2 else 3 := by
  rw [stageOf]
  split_ifs <;> omega

/-- The round's function, by the round (R101). -/
theorem roundFun_stageOf {t : Nat} (ht : t < 80) (b c d : Word) :
    roundFun (stageOf t) b c d =
      if t < 20 then chFun b c d
      else if t < 40 then parityFun b c d
      else if t < 60 then majFun b c d
      else parityFun b c d := by
  rw [stageOf_eq_ite ht]
  split_ifs <;> rfl

/-- The round's constant, by the round (R104). -/
theorem roundConst_stageOf {t : Nat} (ht : t < 80) :
    roundConst (stageOf t) =
      if t < 20 then 0x5A827999 else if t < 40 then 0x6ED9EBA1 else if t < 60 then 0x8F1BBCDC else 0xCA62C1D6 := by
  rw [stageOf_eq_ite ht]
  split_ifs <;> rfl

/-- Settles O8: the schedule's words and the chaining variables after each round are the sequences. -/
theorem compressFollowsTheRounds : Obligations.CompressFollowsTheRounds := by
  refine fun B => ⟨scheduleWord B, fun t => (chainAfter B t).a, fun t => (chainAfter B t).b,
    fun t => (chainAfter B t).c, fun t => (chainAfter B t).d, fun t => (chainAfter B t).e,
    scheduleWord_block B, fun t => scheduleWord_expanded B, rfl, rfl, rfl, rfl, rfl, fun t ht => ?_,
    compress_eq_chainAfter B⟩
  beta_reduce
  rw [chainAfter_succ B ht, roundStep, roundFun_stageOf ht, roundConst_stageOf ht]
  exact ⟨rfl, rfl, rfl, rfl, rfl⟩

end Sys2Proof.Machine
end

section
/-!
PROOFS. The SHA-1 message a padded block stands for (spec/40_compression.md R109): words to bytes and back, and the
padding of a message of 13 words.
-/

namespace Sys2Proof.Machine

/-- A word is its four byte lanes (R57). -/
theorem wordOfBusBytes_busByte (w : Word) :
    wordOfBusBytes (busByte w 0) (busByte w 1) (busByte w 2) (busByte w 3) = w := by
  apply BitVec.eq_of_toNat_eq
  simp only [wordOfBusBytes, toNat_append_eq_add, busByte, BitVec.extractLsb'_toNat, Nat.shiftRight_eq_div_pow]
  omega

/-- The bytes of words are read back as the words. -/
theorem wordsMsbFirst_flatMap (ws : List Word) : wordsMsbFirst (ws.flatMap bytesMsbFirst) = ws := by
  induction ws with
  | nil => rfl
  | cons w ws ih => simp [bytesMsbFirst, wordsMsbFirst, wordOfBusBytes_busByte, ih]

theorem length_flatMap_bytesMsbFirst (ws : List Word) : (ws.flatMap bytesMsbFirst).length = 4 * ws.length := by
  induction ws with
  | nil => rfl
  | cons w ws ih =>
    rw [List.flatMap_cons, List.length_append, ih, List.length_cons, bytesMsbFirst]
    simp only [List.length_cons, List.length_nil]
    omega

/-- The padding of a message of 13 words is the three words of the source (R109, R176). -/
theorem padOneBlock_thirteen_words {ws : List Word} (h : ws.length = 13) :
    padOneBlock (ws.flatMap bytesMsbFirst) = (ws ++ [0x80000000, 0, 0x1A0]).flatMap bytesMsbFirst := by
  have padding : 0x80 :: List.replicate (55 - 52) 0 ++ bytesMsbFirst 0 ++ bytesMsbFirst (BitVec.ofNat 32 (8 * 52)) =
      [0x80000000, 0, 0x1A0].flatMap bytesMsbFirst := by decide
  have length : (ws.flatMap bytesMsbFirst).length = 52 := by rw [length_flatMap_bytesMsbFirst, h]
  rw [List.flatMap_append, ← padding, padOneBlock, length]
  simp only [List.append_assoc]

theorem blockOfWords_toList (B : Block) : blockOfWords B.toList = B := by
  ext i hi
  simp [blockOfWords]

/-- A block is its first 13 words and its words 13 to 15. -/
theorem block_toList_eq_take_append (B : Block) : B.toList = B.toList.take 13 ++ [B[13], B[14], B[15]] := by
  have last : B.toList.drop 13 = [B[13], B[14], B[15]] := by
    apply List.ext_getElem
    · simp
    · intro i _ hi
      have : i < 3 := by simpa using hi
      interval_cases i <;> simp
  rw [← last, List.take_append_drop]

/-- Settles O57: the padded message's words are the block. -/
theorem paddedBlockIsSha1OfItsBytes : Obligations.PaddedBlockIsSha1OfItsBytes := by
  intro B h13 h14 h15
  have words : B.toList.take 13 ++ [0x80000000, 0, 0x1A0] = B.toList := by
    rw [← h13, ← h14, ← h15, ← block_toList_eq_take_append]
  rw [sha1OneBlock, padOneBlock_thirteen_words (by simp), words, wordsMsbFirst_flatMap, blockOfWords_toList]

end Sys2Proof.Machine
end

section
/-!
PROOFS. The commands `DIGEST l` and `DIGEST4` (spec/40_compression.md R110 to R114), and what commands accepted and
completed one after another leave (R33, R34).
-/

namespace Sys2Proof.Machine

/-! ### One command -/

/-- Settles O14: the result in its lane, the other lanes and the frame. -/
theorem digestResultAndFrame : Obligations.DigestResultAndFrame :=
  fun l s => ⟨_, exec_digest l s, by simp, fun k hk => set_lane_other s.dig l k _ hk, rfl, rfl, rfl, rfl,
    exec_completed (exec_digest l s)⟩

/-- Settles O15: each lane's result and the frame. -/
theorem digest4ResultAndFrame : Obligations.Digest4ResultAndFrame :=
  fun s => ⟨_, exec_digest4 s, fun k => eachLane_get _ k, rfl, rfl, rfl, rfl, exec_completed (exec_digest4 s)⟩

/-- Settles O27: a digest is a function of its lane's message. -/
theorem digestsAreDeterministic : Obligations.DigestsAreDeterministic := by
  refine ⟨fun l s s' h => ?_, fun s s' h => ⟨_, _, exec_digest4 s, exec_digest4 s', ?_⟩⟩
  · obtain ⟨t, ht, dig, -⟩ := digestResultAndFrame l s
    obtain ⟨t', ht', dig', -⟩ := digestResultAndFrame l s'
    exact ⟨t, t', ht, ht', by rw [dig, dig', h]⟩
  · simp only [State.complete_dig, State.setDigs_dig, h]

/-! ### Commands one after another -/

variable {i : Instr} {is js : List Instr} {s t u : State}

/-- The first of several commands runs from the state it is accepted in, the others from what it leaves. -/
theorem runCommands_cons : runCommands (i :: is) s = some u ↔
    ∃ t, exec i (s.accept i) = .next t ∧ runCommands is t = some u := by
  obtain ⟨t, ht, -⟩ := exec_next i (s.accept i)
  simp [runCommands, runCommand, ht, nextOf]

/-- Commands accepted and completed always answer a state (R185). -/
theorem runCommands_total (is : List Instr) (s : State) : ∃ u, runCommands is s = some u := by
  induction is generalizing s with
  | nil => exact ⟨s, rfl⟩
  | cons i is ih =>
    obtain ⟨t, ht, -⟩ := exec_next i (s.accept i)
    obtain ⟨u, hu⟩ := ih t
    exact ⟨u, runCommands_cons.mpr ⟨t, ht, hu⟩⟩

/-- A register of the unit that no command of the list writes is unchanged (R36). -/
theorem runCommands_readReg_of_not_writes (h : runCommands is s = some u) {r : Reg} (hr : r.isData = true)
    (hw : ∀ i ∈ is, i.writes r = false) : u.readReg r = s.readReg r := by
  induction is generalizing s with
  | nil => cases h; rfl
  | cons i is ih =>
    obtain ⟨t, ht, hu⟩ := runCommands_cons.mp h
    obtain ⟨first, others⟩ := List.forall_mem_cons.mp hw
    have accepted : (s.accept i).readReg r = s.readReg r := by
      cases r with
      | cmd | status => cases hr
      | _ => rfl
    rw [ih hu others, exec_readReg_of_not_writes ht hr first, accepted]

theorem runCommands_msg (h : runCommands is s = some u) : u.msg = s.msg := by
  induction is generalizing s with
  | nil => cases h; rfl
  | cons i is ih =>
    obtain ⟨t, ht, hu⟩ := runCommands_cons.mp h
    rw [ih hu, exec_msg ht, State.accept_msg]

/-- No command raises or clears an error (R185). -/
theorem runCommands_errors (h : runCommands is s = some u) : u.err = s.err ∧ u.ecode = s.ecode := by
  induction is generalizing s with
  | nil => cases h; exact ⟨rfl, rfl⟩
  | cons i is ih =>
    obtain ⟨t, ht, hu⟩ := runCommands_cons.mp h
    obtain ⟨-, -, err, ecode, -⟩ := exec_completed ht
    obtain ⟨err', ecode'⟩ := ih hu
    exact ⟨err'.trans err, ecode'.trans ecode⟩

/-- The unit is idle after its last completion (R34). -/
theorem runCommands_idle (h : runCommands is s = some u) (hs : is ≠ [] ∨ s.Idle) : u.Idle := by
  induction is generalizing s with
  | nil =>
    cases h
    exact hs.resolve_left (not_not_intro rfl)
  | cons i is ih =>
    obtain ⟨t, ht, hu⟩ := runCommands_cons.mp h
    obtain ⟨pending, busy, -⟩ := exec_completed ht
    exact ih hu (.inr ⟨pending, busy⟩)

/-- The digest of a lane after several commands: that of the lane's message where one of them writes it. -/
theorem runCommands_dig (h : runCommands is s = some u) (l : Lane) :
    u.dig[l] = if is.any (·.writes (.dig l 0)) then compress s.msg[l] else s.dig[l] := by
  induction is generalizing s with
  | nil => cases h; rfl
  | cons i is ih =>
    obtain ⟨t, ht, hu⟩ := runCommands_cons.mp h
    rw [ih hu, exec_msg ht, exec_dig ht, List.any_cons, State.accept_msg, State.accept_dig]
    cases i.writes (.dig l 0) <;> simp

/-- Two runs of commands from one state leave the same unit state where they leave the same digests, seeds and `LCG`:
the rest no command changes, or every completion leaves idle. -/
theorem runCommands_sameUnit (ht : runCommands is s = some t) (hu : runCommands js s = some u) (his : is ≠ [])
    (hjs : js ≠ []) (dig : t.dig = u.dig) (seed : t.seed = u.seed) (lo : t.lcgLo = u.lcgLo) (hi : t.lcgHi = u.lcgHi) :
    t.SameUnit u := by
  have msg : t.msg = u.msg := (runCommands_msg ht).trans (runCommands_msg hu).symm
  obtain ⟨err, ecode⟩ := runCommands_errors ht
  obtain ⟨err', ecode'⟩ := runCommands_errors hu
  obtain ⟨pending, busy⟩ := runCommands_idle ht (.inl his)
  obtain ⟨pending', busy'⟩ := runCommands_idle hu (.inl hjs)
  exact ⟨⟨msg, dig, seed, lo, hi⟩, busy.trans busy'.symm, err.trans err'.symm, ecode.trans ecode'.symm,
    pending.trans pending'.symm⟩

/-! ### `DIGEST4` and the four `DIGEST l` -/

/-- Commands that write digests alone leave the seeds and `LCG` as they were. -/
theorem runCommands_digests_frame (h : runCommands is s = some u)
    (hd : ∀ i ∈ is, i = .digest4 ∨ ∃ l, i = .digest l) :
    u.seed = s.seed ∧ u.lcgLo = s.lcgLo ∧ u.lcgHi = s.lcgHi := by
  have unwritten (r : Reg) (hr : ∀ l j, r ≠ .dig l j) : ∀ i ∈ is, i.writes r = false := by
    intro i hi
    obtain rfl | ⟨l, rfl⟩ := hd i hi <;> cases r with
    | dig l j => exact absurd rfl (hr l j)
    | _ => rfl
  exact ⟨lanes_ext fun l => runCommands_readReg_of_not_writes h (r := .seed l) rfl (unwritten _ nofun),
    runCommands_readReg_of_not_writes h (r := .lcgLo) rfl (unwritten _ nofun),
    runCommands_readReg_of_not_writes h (r := .lcgHi) rfl (unwritten _ nofun)⟩

/-- Settles O23: both runs leave every lane's digest, and change no other register. -/
theorem digest4EqualsFourDigests : Obligations.Digest4EqualsFourDigests := by
  intro p s hp _
  obtain ⟨t, ht⟩ := runCommands_total [.digest4] s
  obtain ⟨u, hu⟩ := runCommands_total (p.map .digest) s
  have all_lanes (l : Lane) : l ∈ p := hp.mem_iff.mpr (by fin_cases l <;> decide)
  have nonempty : p.map Instr.digest ≠ [] := List.ne_nil_of_mem (List.mem_map_of_mem (all_lanes 0))
  have dig : t.dig = u.dig := lanes_ext fun l => by
    have written : (p.map Instr.digest).any (·.writes (.dig l 0)) = true := by simp [Instr.writes, all_lanes l]
    rw [runCommands_dig ht, runCommands_dig hu, written]
    rfl
  obtain ⟨seed, lo, hi⟩ := runCommands_digests_frame ht (by simp)
  obtain ⟨seed', lo', hi'⟩ := runCommands_digests_frame hu (by simp)
  exact ⟨t, u, ht, hu, runCommands_sameUnit ht hu (by simp) nonempty dig (seed.trans seed'.symm) (lo.trans lo'.symm)
    (hi.trans hi'.symm)⟩

end Sys2Proof.Machine
end

section
/-!
PROOFS. The LCG step and seed derivation as functions of words (spec/41_seed_lcg.md R130 to R133, R144): the step as a
number, the halves of the 64-bit register, and the corner cases.
-/

namespace Sys2Proof.Machine

/-! ### The LCG step -/

/-- Settles O10: product and sum of bit vectors are those of numbers, reduced once at the end. -/
theorem lcgStepIsModular : Obligations.LcgStepIsModular := by
  intro x
  rw [lcgStep, lcgStepWith, BitVec.toNat_add, BitVec.toNat_mul, Nat.mod_add_mod]

/-- An odd multiplier keeps the top bit alone: its other bits move out of the word (R144). -/
theorem top_bit_mul_of_odd {m : DWord} (hm : m.getLsbD 0 = true) : 0x8000000000000000 * m = 0x8000000000000000 := by
  have odd : m.toNat % 2 = 1 := by
    rw [← BitVec.testBit_toNat, Nat.testBit_zero] at hm
    exact of_decide_eq_true hm
  apply BitVec.eq_of_toNat_eq
  simp only [BitVec.toNat_mul, BitVec.ofNat_eq_ofNat, BitVec.toNat_ofNat]
  omega

/-- Settles O13: 0 leaves the increment, all ones are -1, and the top bit is kept by an odd multiplier. -/
theorem lcgStepCornerCases : Obligations.LcgStepCornerCases := by
  refine fun m a => ⟨?_, ?_, fun hm => ?_⟩
  · rw [lcgStepWith, BitVec.ofNat_eq_ofNat, BitVec.zero_mul, BitVec.zero_add]
  · have all_ones : (0xFFFFFFFFFFFFFFFF : DWord) = -1 := by decide
    rw [lcgStepWith, all_ones]
    ring
  · rw [lcgStepWith, top_bit_mul_of_odd hm]

/-! ### The halves of a 64-bit value -/

/-- The upper half of a 64-bit value, as a number. -/
theorem toNat_upper_half (x : DWord) : (x.extractLsb' 32 32).toNat = x.toNat / 2 ^ 32 := by
  rw [BitVec.extractLsb'_toNat, Nat.shiftRight_eq_div_pow, Nat.mod_eq_of_lt]
  omega

/-- The two halves side by side are the value. -/
theorem upper_half_append_lower_half (x : DWord) : x.extractLsb' 32 32 ++ x.extractLsb' 0 32 = x := by
  rw [BitVec.extractLsb'_append_extractLsb'_eq_extractLsb' (by decide)]
  exact BitVec.extractLsb'_eq_self

/-! ### Seed derivation -/

/-- The seed of two digest words is the upper half of one LCG step of their swapped value (R132). -/
theorem seedFromDigest_eq_upper_half (h0 h1 : Word) :
    seedFromDigest h0 h1 = (lcgStep (seedInput h0 h1)).extractLsb' 32 32 := rfl

/-- Settles O11: the upper half, the step and the swapped words, each as a number. -/
theorem seedIsUpperHalfOfStep : Obligations.SeedIsUpperHalfOfStep := by
  intro h0 h1
  rw [seedFromDigest_eq_upper_half, toNat_upper_half, lcgStepIsModular, seedInput, toNat_append_eq_add]

/-- The seed of two zero words is the upper half of the increment (R133). -/
theorem seedFromDigestWith_zero (m a : DWord) : seedFromDigestWith m a 0 0 = a.extractLsb' 32 32 := by
  have input : seedInput 0 0 = 0 := by decide
  obtain ⟨zero, -⟩ := lcgStepCornerCases m a
  rw [seedFromDigestWith, input, zero]

/-- The seed of two all-ones words is the upper half of the increment less the multiplier (R133). -/
theorem seedFromDigestWith_allOnes (m a : DWord) :
    seedFromDigestWith m a 0xFFFFFFFF 0xFFFFFFFF = (a - m).extractLsb' 32 32 := by
  have input : seedInput 0xFFFFFFFF 0xFFFFFFFF = 0xFFFFFFFFFFFFFFFF := by decide
  obtain ⟨-, all_ones, -⟩ := lcgStepCornerCases m a
  rw [seedFromDigestWith, input, all_ones]

/-- An increment below 2^32 has no upper half, so it gives the seed 0 to two zero words (R133). -/
theorem seedFromDigestWith_zero_of_lt (m : DWord) {a : DWord} (ha : a.toNat < 2 ^ 32) :
    seedFromDigestWith m a 0 0 = 0 := by
  apply BitVec.eq_of_toNat_eq
  rw [seedFromDigestWith_zero, toNat_upper_half, Nat.div_eq_of_lt ha]
  rfl

/-- Settles O12: the corner cases of the LCG step, for the swapped value of the two words. -/
theorem seedCornerCases : Obligations.SeedCornerCases :=
  ⟨seedFromDigestWith_zero _ _, seedFromDigestWith_allOnes _ _, fun m _ => seedFromDigestWith_zero_of_lt m,
    seedFromDigestWith_zero_of_lt _ (by decide)⟩

end Sys2Proof.Machine
end

section
/-!
PROOFS. The commands `SEED l`, `SEED4`, `DSEED l`, `DSEED4` and `LCG` (spec/41_seed_lcg.md R140 to R147): what each
leaves, and which sequences of them leave the same unit state.
-/

namespace Sys2Proof

/-- `LCG` alone writes a half of its register (R36). -/
theorem Instr.writes_lcg_eq_false {i : Instr} (h : i ≠ .lcg) : i.writes .lcgLo = false ∧ i.writes .lcgHi = false := by
  cases i with
  | lcg => exact absurd rfl h
  | _ => exact ⟨rfl, rfl⟩

namespace Machine

/-! ### One command -/

/-- Settles O16: the result in its lane, the other lanes and the frame. -/
theorem seedResultAndFrame : Obligations.SeedResultAndFrame :=
  fun l s => ⟨_, exec_seed l s, by simp [seedOf], fun k hk => set_lane_other s.seed l k _ hk, rfl, rfl, rfl, rfl,
    exec_completed (exec_seed l s)⟩

/-- Settles O17: each lane's result and the frame. -/
theorem seed4ResultAndFrame : Obligations.Seed4ResultAndFrame :=
  fun s => ⟨_, exec_seed4 s, fun k => eachLane_get _ k, rfl, rfl, rfl, rfl, exec_completed (exec_seed4 s)⟩

/-- Settles O18: both results in their lane, the other lanes and the frame. -/
theorem dseedResultAndFrame : Obligations.DseedResultAndFrame :=
  fun l s => ⟨_, exec_dseed l s, by simp, fun k hk => set_lane_other s.dig l k _ hk, by simp [seedOf],
    fun k hk => set_lane_other s.seed l k _ hk, rfl, rfl, rfl, exec_completed (exec_dseed l s)⟩

/-- Settles O19: both results of each lane and the frame. -/
theorem dseed4ResultAndFrame : Obligations.Dseed4ResultAndFrame :=
  fun s => ⟨_, exec_dseed4 s, fun k => eachLane_get _ k, fun k => eachLane_get _ k, rfl, rfl, rfl,
    exec_completed (exec_dseed4 s)⟩

/-- Settles O20: the halves written are those of one step, and the frame. -/
theorem lcgResultAndFrame : Obligations.LcgResultAndFrame :=
  fun s => ⟨_, exec_lcg s, upper_half_append_lower_half (lcgStep s.lcg), rfl, rfl, rfl, exec_completed (exec_lcg s)⟩

/-- Settles O26: both are the upper half of one LCG step of the swapped digest words. -/
theorem seedEqualsLcgHigh : Obligations.SeedEqualsLcgHigh := by
  intro l s u hi lo
  obtain ⟨t, ht, seed, -⟩ := seedResultAndFrame l s
  have same_input : u.lcg = seedInput s.dig[l][0] s.dig[l][1] := by rw [State.lcg, hi, lo, seedInput]
  refine ⟨t, _, ht, exec_lcg u, ?_⟩
  rw [seed, seedFromDigest_eq_upper_half, State.complete_lcgHi, State.setLcg_lcgHi, same_input]

/-! ### Commands one after another -/

variable {is : List Instr} {s u : State}

/-- Only `LCG` changes its register. -/
theorem runCommands_lcg (h : runCommands is s = some u) (hl : Instr.lcg ∉ is) :
    u.lcgLo = s.lcgLo ∧ u.lcgHi = s.lcgHi := by
  have unwritten (i : Instr) (hi : i ∈ is) := Instr.writes_lcg_eq_false (ne_of_mem_of_not_mem hi hl)
  exact ⟨runCommands_readReg_of_not_writes h (r := .lcgLo) rfl fun i hi => (unwritten i hi).left,
    runCommands_readReg_of_not_writes h (r := .lcgHi) rfl fun i hi => (unwritten i hi).right⟩

/-- The seed of a lane after several commands of which each writes the lane's seed where it writes its digest: that of
the digest they leave in the lane, where one of them writes the seed. -/
theorem runCommands_seed (h : runCommands is s = some u) (l : Lane)
    (hd : ∀ i ∈ is, i.writes (.dig l 0) = true → i.writes (.seed l) = true) :
    u.seed[l] = if is.any (·.writes (.seed l)) then seedOf u.dig[l] else s.seed[l] := by
  induction is generalizing s with
  | nil => cases h; rfl
  | cons i is ih =>
    obtain ⟨t, ht, hu⟩ := runCommands_cons.mp h
    obtain ⟨-, others⟩ := List.forall_mem_cons.mp hd
    rw [ih hu others, List.any_cons]
    cases later : is.any (·.writes (.seed l)) with
    | true => rw [Bool.or_true, if_pos rfl, if_pos rfl]
    | false =>
      have no_digest : is.any (·.writes (.dig l 0)) = false := by
        rw [List.any_eq_false] at later ⊢
        exact fun j hj hw => later j hj (others j hj hw)
      have dig : u.dig[l] = t.dig[l] := by rw [runCommands_dig hu, no_digest]; rfl
      rw [Bool.or_false, dig, exec_seed_lane ht, State.accept_seed]
      rfl

/-! ### `SEED4` and `DSEED4` as four scalar commands -/

theorem mem_of_perm_lanes {p : List Lane} (hp : p.Perm [0, 1, 2, 3]) (l : Lane) : l ∈ p :=
  hp.mem_iff.mpr (by fin_cases l <;> decide)

/-- A command that writes every lane's seed equals its scalar forms in any order: each of them writes the seed of its
own lane and, where the 4-lane command writes digests, the digest of its own lane. -/
theorem fourLanes_sameUnit_scalars {four : Instr} {scalar : Lane → Instr}
    (seeds : ∀ l : Lane, four.writes (.seed l) = true) (seed : ∀ k l : Lane, (scalar k).writes (.seed l) = (l == k))
    (dig : ∀ k l : Lane, (scalar k).writes (.dig l 0) = (four.writes (.dig l 0) && l == k))
    {p : List Lane} (hp : p.Perm [0, 1, 2, 3]) (s : State) :
    ∃ t u, runCommands [four] s = some t ∧ runCommands (p.map scalar) s = some u ∧ t.SameUnit u := by
  obtain ⟨t, ht⟩ := runCommands_total [four] s
  obtain ⟨u, hu⟩ := runCommands_total (p.map scalar) s
  have all_lanes := mem_of_perm_lanes hp
  have nonempty : p.map scalar ≠ [] := List.ne_nil_of_mem (List.mem_map_of_mem (all_lanes 0))
  have same_digs (l : Lane) : (p.map scalar).any (·.writes (.dig l 0)) = [four].any (·.writes (.dig l 0)) := by
    cases hw : four.writes (.dig l 0) <;> simp [dig, hw, all_lanes l]
  have all_seeds (l : Lane) : (p.map scalar).any (·.writes (.seed l)) = true := by simp [seed, all_lanes l]
  have digs : t.dig = u.dig := lanes_ext fun l => by rw [runCommands_dig ht, runCommands_dig hu, same_digs]
  have seed_of_t (l : Lane) : t.seed[l] = seedOf t.dig[l] := by
    rw [runCommands_seed ht l (by simp [seeds]), if_pos (by simp [seeds])]
  have seed_of_u (l : Lane) : u.seed[l] = seedOf u.dig[l] := by
    rw [runCommands_seed hu l (by simp [seed, dig]), if_pos (all_seeds l)]
  have not_lcg {i : Instr} {l : Lane} (hi : i.writes (.seed l) = true) : i ≠ .lcg := by rintro rfl; cases hi
  obtain ⟨lo, hi⟩ := runCommands_lcg ht (by simpa using (not_lcg (seeds 0)).symm)
  obtain ⟨lo', hi'⟩ := runCommands_lcg hu (by
    simpa using fun k _ => not_lcg (l := k) (by rw [seed, beq_self_eq_true]))
  exact ⟨t, u, ht, hu, runCommands_sameUnit ht hu (by simp) nonempty digs
    (lanes_ext fun l => by rw [seed_of_t, seed_of_u, digs]) (lo.trans lo'.symm) (hi.trans hi'.symm)⟩

/-- Settles O24: both pairs are a 4-lane command and its scalar forms. -/
theorem seed4AndDseed4EqualFourScalars : Obligations.Seed4AndDseed4EqualFourScalars :=
  fun _ s hp _ =>
    ⟨fourLanes_sameUnit_scalars (fun _ => rfl) (fun _ _ => rfl) (fun _ _ => rfl) hp s,
      fourLanes_sameUnit_scalars (fun _ => rfl) (fun _ _ => rfl) (fun _ _ => (Bool.true_and _).symm) hp s⟩

/-! ### `DSEED` as `DIGEST` then `SEED` -/

/-- Settles O25: the runs write the same digests, and `SEED` reads back those that `DIGEST` has just written. -/
theorem dseedEqualsDigestThenSeed : Obligations.DseedEqualsDigestThenSeed := by
  refine fun s => ⟨fun l => ⟨_, _, rfl, rfl, ?_⟩, ⟨_, _, rfl, rfl, ?_⟩⟩
  · have read_back : (s.dig.set l.val (compress s.msg[l]))[l] = compress s.msg[l] := by simp
    simp [-Fin.getElem_fin, State.SameUnit, State.SameData, read_back]
  · simp [-Fin.getElem_fin, State.SameUnit, State.SameData, eachLane_get]

end Machine
end Sys2Proof
end

section
/-!
PROOFS. The host program's lines on the machine (spec/42_host_access.md R160, R163, R165, R166): the idle reads of the
register map, and the step that performs an `rd`, `poll`, `wait` or `clr` line.
-/

namespace Sys2Proof.Machine

/-! ### Idle reads -/

/-- Settles O35: the idle read of each register of the map. -/
theorem idleReadsReturnTheRegister : Obligations.IdleReadsReturnTheRegister :=
  fun _ hs => ⟨fun l i => memRead_idle (.msg l i) hs, fun l j => memRead_idle (.dig l j) hs,
    fun l => memRead_idle (.seed l) hs, memRead_idle .lcgLo hs, memRead_idle .lcgHi hs, memRead_idle .cmd hs,
    memRead_idle .status hs⟩

/-- An idle `rd` line of a register keeps its value as a host value and does nothing else (R163). -/
theorem performEvent_rdReg (r : Reg) (dst : Nat) {s : State} (hs : s.busy = false) :
    performEvent (.line (.rdReg r dst)) s = .next (s.setVal dst (s.readReg r)) := by
  rw [HostLine.rdReg, performEvent_read r.offset_lt (.inr ⟨rfl, rfl⟩), memRead_idle r hs]

/-- Settles O53: the line is performed in the state the host's turn begins in, whose registers are the state's. -/
theorem readLineSetsOneHostValue : Obligations.ReadLineSetsOneHostValue := by
  rintro s r dst rest ⟨hp, hb⟩ hr hi
  refine ⟨(s.passStep.takeEvent rest).setVal dst (s.readReg r), ?_, HostVals.get_put_same _ _ _,
    fun k hk => HostVals.get_put_other _ _ _ _ hk, ⟨⟨rfl, rfl, rfl, rfl, rfl⟩, rfl, rfl, rfl, rfl⟩, rfl⟩
  rw [step_of_host_cons (State.turn_of_idle hp hr) hi,
    performEvent_rdReg r dst (s := s.passStep.takeEvent rest) hb, State.readReg_takeEvent]

/-! ### `poll` and `wait` -/

/-- A `poll` line of the window is one read and the test of its word (R165). -/
theorem performEvent_poll {off : Nat} (hoff : off < 0x200) (mask val : Word) (s : State) :
    performEvent (.line (.poll off mask val)) s =
      .next (pollAgain off mask val (memRead (BitVec.ofNat 9 off) 4 s).1 (memRead (BitVec.ofNat 9 off) 4 s).2) := by
  rw [performEvent, performLine, windowOffset_of_lt hoff, hostRead]

/-- A read leaves the events still to come. -/
@[simp] theorem memRead_inputs (off : BitVec 9) (n : Nat) (s : State) : (memRead off n s).2.inputs = s.inputs := by
  obtain h | h | h := memRead_frame off n s <;> simp [h]

/-- The test of a `poll` line leaves its line to come again where the masked word is not the value (R165). -/
theorem pollAgain_inputs (off : Nat) (mask val w : Word) (s : State) :
    (pollAgain off mask val w s).inputs =
      if w &&& mask = val then s.inputs else .line (.poll off mask val) :: s.inputs := by
  rw [pollAgain]
  split_ifs <;> rfl

/-- The test of a `poll` line changes nothing but the events still to come. -/
theorem pollAgain_frame (off : Nat) (mask val w : Word) (s : State) :
    pollAgain off mask val w s = { s with inputs := (pollAgain off mask val w s).inputs } := by
  rw [pollAgain]
  split_ifs <;> rfl

/-- The mask of `wait` leaves the bit `BUSY` of the word of `STATUS` (R165, R26). -/
theorem State.statusWord_and_one_eq_zero (s : State) : s.statusWord &&& 0x1 = 0x0 ↔ s.busy = false := by
  have bit : s.statusWord &&& 0x1 = (BitVec.ofBool s.busy).setWidth 32 := by
    rw [← s.statusWord_busy]
    exact BitVec.and_one_eq_setWidth_ofBool_getLsbD
  rw [bit]
  cases s.busy <;> decide

/-- The line `wait` is the read of `STATUS` and the test of its word (R165). -/
theorem performEvent_wait (s : State) :
    performEvent (.line .wait) s = .next (pollAgain 0x1C4 0x1 0x0 s.statusWord s) := by
  have read : memRead (BitVec.ofNat 9 0x1C4) 4 s = (s.statusWord, s) := memRead_status s
  rw [HostLine.wait, performEvent_poll (by decide), read]

/-- With the unit not busy the line `wait` is done. -/
theorem performEvent_wait_idle {s : State} (hb : s.busy = false) : performEvent (.line .wait) s = .next s := by
  rw [performEvent_wait, pollAgain, if_pos (s.statusWord_and_one_eq_zero.mpr hb)]

/-- With the unit busy the line `wait` stands first again. -/
theorem performEvent_wait_busy {s : State} (hb : s.busy = true) :
    performEvent (.line .wait) s = .next (s.pushInput (.line .wait)) := by
  have again : ¬s.statusWord &&& 0x1 = 0x0 := mt s.statusWord_and_one_eq_zero.mp (by simp [hb])
  rw [performEvent_wait, pollAgain, if_neg again, HostLine.wait]

/-- Settles O51: the read and its test, from the state the host's turn begins in. -/
theorem waitPollsBusy : Obligations.WaitPollsBusy := by
  refine fun s rest turn => ⟨?_, fun hi => ⟨fun hb => ?_, fun hb => ?_⟩⟩
  · rintro off mask val u hoff hi rfl
    refine ⟨_, (step_of_host_cons turn hi).trans (performEvent_poll hoff mask val _), ?_, pollAgain_frame ..⟩
    rw [pollAgain_inputs, memRead_inputs, hi]
    rfl
  · exact (step_of_host_cons turn hi).trans (performEvent_wait_idle (s := s.passStep.takeEvent rest) hb)
  · rw [step_of_host_cons turn hi, performEvent_wait_busy (s := s.passStep.takeEvent rest) hb, State.pushInput]
    simp [State.takeEvent, State.passStep, hi]

/-! ### `clr` -/

/-- The line `clr` clears the recorded error, idle or busy (R166, R28). -/
theorem performEvent_clr (s : State) : performEvent (.line .clr) s = .next s.clearError :=
  (performEvent_write (off := 0x1C4) (by decide) (.inr ⟨rfl, rfl⟩) s).trans (congrArg _ (memWrite_status 0x2 s))

/-- Settles O52: the clearing, from the state the host's turn begins in. -/
theorem clrClearsTheError : Obligations.ClrClearsTheError :=
  fun _ _ turn hi => (step_of_host_cons turn hi).trans (performEvent_clr _)

end Sys2Proof.Machine
end

section
/-!
PROOFS. The end of a host program's run (spec/42_host_access.md R168): which events set the mark of an accepted command,
and the completion of a last command.
-/

namespace Sys2Proof.Machine

variable {s t : State}

/-! ### The mark of an accepted command -/

/-- The event is a write of a command's word to `CMD` that the unit, idle, accepts (R33). -/
def State.Accepts (s : State) (e : Event) : Prop :=
  s.busy = false ∧ ∃ (c : Word) (i : Instr), decode c = .command i ∧
    (e = .line (.wr 0x1C0 c) ∨ e = .write (Config.base + 0x1C0) 4 c)

/-- An accepted write to `CMD` is the acceptance of its command. -/
theorem State.Accepts.performEvent {e : Event} (h : s.Accepts e) :
    ∃ i, performEvent e s = .next (s.accept i) := by
  obtain ⟨hb, c, i, hc, he⟩ := h
  have write : e = .write (Config.base + 0x1C0) 4 c ∨ 4 = 4 ∧ e = .line (.wr 0x1C0 c) :=
    he.symm.imp_right fun h => ⟨rfl, h⟩
  exact ⟨i, (performEvent_write (by decide) write s).trans (congrArg _ (memWrite_cmd_accept hc hb))⟩

/-- A read and the use of its word leave the mark. -/
theorem readUse_memRead_cmdLast (use : ReadUse) (w : Word) (off : BitVec 9) (n : Nat) (s : State) :
    (use.run w (memRead off n s).2).cmdLast = s.cmdLast := by
  have read : (memRead off n s).2.cmdLast = s.cmdLast := by
    obtain h | h | h := memRead_frame off n s <;> simp [h]
  obtain ⟨_, h⟩ | h | ⟨_, _, _, -, h⟩ := use.run_cases w (memRead off n s).2 <;> rw [h] <;> exact read

/-- Only the acceptance of a command sets the mark. -/
theorem memWrite_cmdLast (off : BitVec 9) (n : Nat) (v : Word) (s : State) :
    (memWrite off n v s).cmdLast = s.cmdLast ∨
      accessTarget off n = some .cmd ∧ s.busy = false ∧ ∃ i, decode v = .command i := by
  obtain ⟨-, h⟩ | ⟨-, h⟩ | ⟨_, -, -, -, h⟩ | ⟨_, -, -, -, h⟩ | ⟨i, target, idle, hc, -⟩ | ⟨r, -, -, -, h⟩ :=
    memWrite_cases off n v s
  · simp [h]
  · obtain ⟨-, h'⟩ | ⟨-, h'⟩ := s.writeStatus_cases v <;> simp [h, h']
  · simp [h]
  · simp [h]
  · exact .inr ⟨target, idle, i, hc⟩
  · simp [h, s.writeReg_frame r v]

/-- An event that is no accepted write to `CMD` leaves the mark. -/
theorem performEvent_cmdLast {e : Event} (h : performEvent e s = .next t) (he : ¬s.Accepts e) :
    t.cmdLast = s.cmdLast := by
  obtain ⟨off, n, v, hevent, rfl⟩ | ⟨off, n, use, -, rfl⟩ := performEvent_cases h
  · obtain same | ⟨target, idle, i, hc⟩ := memWrite_cmdLast off n v s
    · exact same
    · exact absurd ⟨idle, v, i, hc, event_of_write_target hevent target⟩ he
  · exact readUse_memRead_cmdLast use _ off n s

/-! ### The last event -/

/-- With one event left, the step that performs it ends the run unless it leaves an event or is accepted. -/
theorem endsRun_iff_of_last_event {e : Event} (turn : s.turn = .host) (hi : s.inputs = [e]) (h : step s = .next t) :
    EndsRun s t ↔ t.inputs = [] ∧ ¬s.Accepts e := by
  have running : ¬s.RunEnded := by simp [State.RunEnded, hi]
  have perform : performEvent e (s.passStep.takeEvent []) = .next t := (step_of_host_cons turn hi).symm.trans h
  have ends : EndsRun s t ↔ t.RunEnded := ⟨fun ⟨_, _, ended⟩ => ended, fun ended => ⟨h, running, ended⟩⟩
  rw [ends]
  by_cases accepted : s.Accepts e
  · obtain ⟨i, hacc⟩ := State.Accepts.performEvent (s := s.passStep.takeEvent []) accepted
    obtain rfl : (s.passStep.takeEvent []).accept i = t := by simpa [perform] using hacc.symm
    simp [State.RunEnded, accepted]
  · have unmarked : t.cmdLast = false := performEvent_cmdLast (s := s.passStep.takeEvent []) perform accepted
    simp [State.RunEnded, accepted, unmarked]

/-! ### The last command -/

/-- Command `i` is pending, the last thing the host has done, and no reset comes before its completion. -/
structure State.LastPending (s : State) (i : Instr) : Prop where
  pending : s.pending = some i
  inputs : s.inputs = []
  cmdLast : s.cmdLast = true
  resets : ∀ n, s.resets.head? = some n → s.delay < n

/-- While the last command is pending the run has not ended. -/
theorem State.LastPending.not_runEnded {i : Instr} (h : s.LastPending i) : ¬s.RunEnded := by
  simp [State.RunEnded, h.cmdLast, h.pending]

/-- With delay left, a cycle passes and the last command is still pending. -/
theorem State.LastPending.step_of_delay {i : Instr} (h : s.LastPending i) (hd : s.delay ≠ 0) :
    step s = .next s.passStep.tick ∧ s.passStep.tick.LastPending i := by
  have turn := State.turn_of_delay hd (State.resetDue_of_lt h.resets)
  have delay : s.passStep.tick.delay + 1 = s.delay := Nat.succ_pred hd
  exact ⟨step_of_host_nil turn h.inputs, h.pending, h.inputs, h.cmdLast, countDown_head_gt (delay ▸ h.resets)⟩

/-- After its delay the last command is due. -/
theorem State.LastPending.run {i : Instr} (h : s.LastPending i) :
    ∃ u, Sys2Proof.core.run s.delay s = .next u ∧ u.LastPending i ∧ u.delay = 0 := by
  induction hn : s.delay generalizing s with
  | zero => exact ⟨s, core_run_zero s, h, hn⟩
  | succ n ih =>
    obtain ⟨hs, h'⟩ := h.step_of_delay (by omega)
    obtain ⟨u, hu, due⟩ := ih h' (Nat.sub_eq_of_eq_add hn)
    exact ⟨u, (core_run_of_next hs n).trans hu, due⟩

/-- The completion of the last command ends the run (R168, R34). -/
theorem State.LastPending.endsRun_of_due {i : Instr} (h : s.LastPending i) (hd : s.delay = 0) :
    ∃ t, step s = .next t ∧ EndsRun s t := by
  obtain ⟨t, ht⟩ : ∃ t, exec i s.passStep = .next t := (exec_next i s.passStep).imp fun _ h => h.left
  obtain ⟨pending, -, -, -, inputs, -⟩ := exec_completed ht
  have complete : step s = .next t :=
    (step_of_unit (State.resetDue_of_lt h.resets) (State.due_eq_some.mpr ⟨hd, h.pending⟩)).trans ht
  exact ⟨t, complete, complete, h.not_runEnded, inputs.trans h.inputs, fun _ => pending⟩

/-! ### After the end -/

/-- A run that has ended stays ended. -/
theorem State.RunEnded.step (h : s.RunEnded) (hs : step s = .next t) : t.RunEnded := by
  obtain ⟨inputs, last⟩ := h
  obtain ⟨-, rfl⟩ | ⟨i, -, hx⟩ | ⟨-, -, rfl⟩ | ⟨e, rest, -, hi, -⟩ := step_cases hs
  · exact ⟨inputs, fun _ => rfl⟩
  · obtain ⟨pending, -, -, -, inputs', -⟩ := exec_completed hx
    exact ⟨inputs'.trans inputs, fun _ => pending⟩
  · exact ⟨inputs, last⟩
  · rw [inputs] at hi
    cases hi

/-- Settles O59: the last event, the last command and what comes after the end. -/
theorem runEndsWithTheLastCommand : Obligations.RunEndsWithTheLastCommand := by
  refine ⟨fun s t e turn hi h => endsRun_iff_of_last_event turn hi h, fun s i idle hi resets => ?_,
    fun s t => State.RunEnded.step⟩
  have hr := State.resetDue_of_lt resets
  have accepted := hostLineStartsCommand s i [] idle hr hi
  have last : ((s.passStep.takeEvent []).accept i).LastPending i := ⟨rfl, rfl, rfl, countDown_head_gt resets⟩
  obtain ⟨u, hu, due, hd⟩ := last.run
  obtain ⟨v, hv, ends⟩ := due.endsRun_of_due hd
  exact ⟨_, u, v, accepted, fun ⟨_, _, ended⟩ => last.not_runEnded ended, hu, hv, ends⟩

end Sys2Proof.Machine
end

section
/-!
PROOFS. The message block of a host that follows the source (spec/42_host_access.md R170 to R177), word by word, and the
hardware's time code (R174).
-/

namespace Sys2Proof.Machine

/-! ### The words of the block -/

/-- The key input stands at its place (R175). -/
theorem keyWord_at_keyPlace (norm : Word → Word) (hw others : Word × Word) (nonce : Vector Word 5) (c : HostCandidate)
    (key : Word) (place : Fin 3) :
    (messageBlockWith norm hw (keyWordsAt place key others) nonce c)[10 + place.val] = key := by
  fin_cases place <;> rfl

/-- The other two words of 10 to 12 are the same for every key input (R175). -/
theorem keyWord_off_keyPlace (norm : Word → Word) (hw others : Word × Word) (nonce : Vector Word 5)
    (c : HostCandidate) (key key' : Word) : ∀ {j place : Fin 3}, j ≠ place →
    (messageBlockWith norm hw (keyWordsAt place key' others) nonce c)[10 + j.val] =
      (messageBlockWith norm hw (keyWordsAt place key others) nonce c)[10 + j.val]
  | 0, 0, h | 1, 1, h | 2, 2, h => absurd rfl h
  | 0, 1, _ | 0, 2, _ | 1, 0, _ | 1, 2, _ | 2, 0, _ | 2, 1, _ => rfl

/-- Words 0 to 4 are the nonce, normalised (R171). -/
theorem messageBlock_nonce (h : HostSession) (c : HostCandidate) (i : Fin 5) :
    (messageBlock h c)[i.val] = Config.norm h.nonce[i] := by
  fin_cases i <;> rfl

/-- Words 6 and 7 carry the hardware identity (R173). -/
theorem messageBlock_hardware (h : HostSession) (c : HostCandidate) (w : Fin 2) :
    (messageBlock h c)[6 + w.val] = hardwareWord h w := by
  fin_cases w <;> rfl

/-- The block of another candidate is the block with words 5, 8 and 9 written anew (R177). -/
theorem messageBlock_candidate (h : HostSession) (c c' : HostCandidate) :
    messageBlock h c' =
      (((messageBlock h c).set 5 (messageBlock h c')[5]).set 8 (messageBlock h c')[8]).set 9 (messageBlock h c')[9] :=
  rfl

/-- Candidates of one session differ in words 5, 8 and 9 alone (R170, R177). -/
theorem messageBlock_same_session (h : HostSession) (c c' : HostCandidate) {i : Fin 16} (h5 : i ≠ 5) (h8 : i ≠ 8)
    (h9 : i ≠ 9) : (messageBlock h c)[i] = (messageBlock h c')[i] := by
  have n5 : 5 ≠ i.val := fun e => h5 (Fin.ext e.symm)
  have n8 : 8 ≠ i.val := fun e => h8 (Fin.ext e.symm)
  have n9 : 9 ≠ i.val := fun e => h9 (Fin.ext e.symm)
  rw [messageBlock_candidate h c c', Fin.getElem_fin, Fin.getElem_fin, Vector.getElem_set_ne _ _ n9,
    Vector.getElem_set_ne _ _ n8, Vector.getElem_set_ne _ _ n5]

/-- Settles O56: the words by their numbers, each of the open parts by its lemma. -/
theorem messageBlockLayout : Obligations.MessageBlockLayout := by
  refine fun h c c' => ⟨rfl, rfl, rfl, rfl, rfl, rfl, messageBlock_nonce h c, fun w => ?_,
    keyWord_at_keyPlace .., fun _ key => keyWord_off_keyPlace _ _ _ _ _ h.keyInput key,
    fun _ => messageBlock_same_session h c c'⟩
  rw [messageBlock_hardware, hardwareWord]
  simp only [eq_comm]

/-! ### The time code -/

/-- The flip of `0x40000000` is a flip of bit 30 and of no other. -/
theorem getLsbD_xor_bit30_ne_iff (x : Word) (k : Nat) : (x ^^^ 0x40000000).getLsbD k ≠ x.getLsbD k ↔ k = 30 := by
  have flip : (0x40000000 : Word) = BitVec.twoPow 32 30 := by decide
  rw [flip, BitVec.getLsbD_xor, BitVec.getLsbD_twoPow]
  by_cases hk : k = 30
  · simp [hk]
  · simp [hk, Ne.symm hk]

/-- Settles O58: by the profile, and for the two that flip the bit by the 12-hour boundary. -/
theorem timeCodeDiffersByOneBit : Obligations.TimeCodeDiffersByOneBit := by
  intro p seconds plain k _
  have boundary : 12 ≤ seconds / 3600 ↔ 43200 ≤ seconds := by omega
  cases p with
  | variantA | variantB =>
    simp only [timeCodeForHardware, boundary]
    split_ifs with late
    · rw [getLsbD_xor_bit30_ne_iff]
      simp [late]
    · simp [late]
  | variantC => simp [timeCodeForHardware]

end Sys2Proof.Machine
end

section
/-!
PROOFS. The error causes and their priority (spec/60_exceptions.md R180 to R185): what raises each of the three errors,
what an access that raises none leaves of the error fields, and that a command's completion raises none.
-/

namespace Sys2Proof.Machine

variable {s : State}

/-! ### `raise Error` -/

/-- The first error is recorded with its code (R183). -/
theorem State.raiseError_of_no_error (h : s.err = false) (c : ErrorCode) :
    s.raiseError c = { s with err := true, ecode := c.code } := by
  simp [State.raiseError, h]

/-- A second error changes nothing (R183). -/
theorem State.raiseError_of_error (h : s.err = true) (c : ErrorCode) : s.raiseError c = s := by
  cases s
  cases h
  rfl

/-- Settles O31: `raise Error` by the value of `ERR`, and the table of R180. -/
theorem firstErrorIsKept : Obligations.FirstErrorIsKept :=
  ⟨fun _ c h => State.raiseError_of_no_error h c, fun _ c h => State.raiseError_of_error h c, rfl, rfl, rfl⟩

/-! ### Completion -/

/-- Settles O28: the error fields are among what every command leaves alone at its completion step. -/
theorem completionRaisesNoError : Obligations.CompletionRaisesNoError := by
  intro i s
  obtain ⟨t, ht, -, -, -, herr, hecode, -⟩ := exec_next i s
  exact ⟨t, ht, herr, hecode⟩

/-! ### Bad accesses -/

/-- A bad access that reads returns 0, records error 3 and changes nothing else (R182). -/
theorem memRead_of_badAccess {off : BitVec 9} {n : Nat} (h : BadAccess off n) (s : State) :
    memRead off n s = (0, s.raiseError .badAccess) := by
  simp [memRead, (accessTarget_eq_none off n).mpr h]

/-- Settles O33: the write and the read of a bad access. -/
theorem badAccessesRaiseErrorThree : Obligations.BadAccessesRaiseErrorThree :=
  fun s _ _ v h => ⟨memWrite_of_badAccess h v s, memRead_of_badAccess h s⟩

/-- An access that is not bad is of 4 bytes at the offset of a register (R53, R55). -/
theorem exists_reg_of_not_badAccess {off : BitVec 9} {n : Nat} (h : ¬BadAccess off n) :
    ∃ r : Reg, n = 4 ∧ off = BitVec.ofNat 9 r.offset := by
  rw [← accessTarget_eq_none, ← ne_eq, Option.ne_none_iff_exists'] at h
  exact h.imp fun r => accessTarget_eq_some

/-! ### Good accesses -/

theorem Reg.offset_eq_status_iff (r : Reg) : BitVec.ofNat 9 r.offset = 0x1C4 ↔ r = .status :=
  ⟨fun h => Reg.offset_inj (k := .status) h, fun h => h ▸ rfl⟩

theorem Reg.offset_eq_cmd_iff (r : Reg) : BitVec.ofNat 9 r.offset = 0x1C0 ↔ r = .cmd :=
  ⟨fun h => Reg.offset_inj (k := .cmd) h, fun h => h ▸ rfl⟩

theorem decode_toOption_eq_none {c : Word} : (decode c).toOption = none ↔ ∃ why, decode c = .illegal why := by
  cases decode c <;> simp [Decoded.toOption]

/-- A read of a register of the map raises no error (R182, R207). -/
theorem memRead_register_keeps_error (r : Reg) (s : State) :
    (memRead (BitVec.ofNat 9 r.offset) 4 s).2.err = s.err ∧
      (memRead (BitVec.ofNat 9 r.offset) 4 s).2.ecode = s.ecode := by
  obtain ⟨reserved, -⟩ | ⟨_, -, -, -, h⟩ | ⟨_, -, -, h⟩ := memRead_cases (BitVec.ofNat 9 r.offset) 4 s
  · simp at reserved
  · simp [h]
  · simp [h]

/-- While busy, a write to a register other than `STATUS` records error 2 and changes nothing else (R181). -/
theorem memWrite_busy {r : Reg} (hr : r ≠ .status) (hb : s.busy = true) (v : Word) :
    memWrite (BitVec.ofNat 9 r.offset) 4 v s = s.raiseError .busyWrite := by
  rw [memWrite, accessTarget_offset]
  cases r with
  | status => exact absurd rfl hr
  | _ => exact if_pos hb

/-- A legal write to `STATUS` clears `ERR` where its bit 1 is 1 (R28). -/
theorem State.writeStatus_err (s : State) (v : Word) : (s.writeStatus v).err = (s.err && !v.getLsbD 1) := by
  obtain ⟨bit, h⟩ | ⟨bit, h⟩ := s.writeStatus_cases v
  · rw [h, bit, State.clearError_err, Bool.not_true, Bool.and_false]
  · rw [h, bit, Bool.not_false, Bool.and_true]

/-- A write that is neither a busy write nor an illegal command leaves `ERR`, but for the clearing of it by a write to
`STATUS` (R28, R184). -/
theorem memWrite_err_of_no_cause {r : Reg} {v : Word} (idle : r = .status ∨ s.busy = false)
    (legal : r = .cmd → ∃ i, decode v = .command i) :
    (memWrite (BitVec.ofNat 9 r.offset) 4 v s).err = (s.err && !(decide (r = .status) && v.getLsbD 1)) := by
  by_cases hstatus : r = .status
  · rw [r.offset_eq_status_iff.mpr hstatus, memWrite_status, State.writeStatus_err, decide_eq_true hstatus,
      Bool.true_and]
  have hidle := idle.resolve_left hstatus
  rw [decide_eq_false hstatus, Bool.false_and, Bool.not_false, Bool.and_true]
  by_cases hcmd : r = .cmd
  · obtain ⟨i, hi⟩ := legal hcmd
    rw [r.offset_eq_cmd_iff.mpr hcmd, memWrite_cmd_accept hi hidle, State.accept_err]
  · have data : r.isData = true := by
      cases r with
      | cmd => exact absurd rfl hcmd
      | status => exact absurd rfl hstatus
      | _ => rfl
    obtain ⟨-, herr, -⟩ := s.writeReg_frame r v
    rw [memWrite_idle_data data v hidle, herr]

/-- Settles O32: the busy write and the idle write of an illegal word. -/
theorem writeErrors : Obligations.WriteErrors := by
  refine ⟨fun s r v hr hb => memWrite_busy hr hb v, fun s c why hb hc => ?_⟩
  rw [memWrite_cmd_illegal hc hb]
  exact ⟨rfl, hb⟩

/-- Settles O34: the bad access first; an access that is not bad reaches a register, which decides the other tests. -/
theorem errorPriority : Obligations.ErrorPriority := by
  intro s off n v
  by_cases bad : BadAccess off n
  · rw [if_pos bad, if_pos bad]
    exact ⟨memWrite_of_badAccess bad v s, congrArg Prod.snd (memRead_of_badAccess bad s)⟩
  rw [if_neg bad, if_neg bad]
  obtain ⟨r, rfl, rfl⟩ := exists_reg_of_not_badAccess bad
  refine ⟨?_, memRead_register_keeps_error r s⟩
  split_ifs with busy illegal
  · obtain ⟨hstatus, hb⟩ := busy
    exact memWrite_busy (mt r.offset_eq_status_iff.mpr hstatus) hb v
  · obtain ⟨hcmd, hnone⟩ := illegal
    obtain ⟨why, hc⟩ := decode_toOption_eq_none.mp hnone
    have idle : s.busy = false := by simpa [hcmd] using busy
    rw [hcmd]
    exact memWrite_cmd_illegal hc idle
  · simp only [beq_eq_decide, ne_eq, r.offset_eq_status_iff, r.offset_eq_cmd_iff, decode_toOption_eq_none]
      at busy illegal ⊢
    refine memWrite_err_of_no_cause (by simpa [or_iff_not_imp_left] using busy) fun hcmd => ?_
    cases hd : decode v with
    | command i => exact ⟨i, rfl⟩
    | illegal why => exact absurd ⟨hcmd, why, hd⟩ illegal

end Sys2Proof.Machine
end

section
/-!
PROOFS. Reset and hazards (spec/70_reset_and_hazards.md R200 to R210): what changes a data register and what ends
idleness, reads while busy, the reset event, and that a reset may be asserted between any two steps.
-/

namespace Sys2Proof.Machine

variable {s t : State}

/-! ### What changes a data register -/

/-- States that hold the same data registers read the same in each of them. -/
theorem State.SameData.readReg (h : s.SameData t) {r : Reg} (hr : r.isData = true) : t.readReg r = s.readReg r := by
  obtain ⟨msg, dig, seed, lo, hi⟩ := h
  cases r with
  | msg l i => simp only [State.readReg, msg]
  | dig l j => simp only [State.readReg, dig]
  | seed l => simp only [State.readReg, seed]
  | lcgLo => exact lo.symm
  | lcgHi => exact hi.symm
  | cmd | status => cases hr

/-- A write leaves the data registers, unless it is an idle one that reaches a register and writes it (R161, R206). -/
theorem memWrite_sameData_or_writeReg (off : BitVec 9) (n : Nat) (v : Word) (s : State) :
    s.SameData (memWrite off n v s) ∨
      ∃ r, accessTarget off n = some r ∧ s.busy = false ∧ memWrite off n v s = s.writeReg r v := by
  obtain ⟨-, h⟩ | ⟨-, h⟩ | ⟨_, -, -, -, h⟩ | ⟨_, -, -, -, h⟩ | ⟨i, -, -, -, h⟩ | ⟨r, target, -, idle, h⟩ :=
    memWrite_cases off n v s
  · exact .inl (h ▸ ⟨rfl, rfl, rfl, rfl, rfl⟩)
  · exact .inl (State.sameData_of_pendingView (by rw [h, State.writeStatus_pendingView]))
  · exact .inl (h ▸ ⟨rfl, rfl, rfl, rfl, rfl⟩)
  · exact .inl (h ▸ ⟨rfl, rfl, rfl, rfl, rfl⟩)
  · exact .inl (h ▸ ⟨rfl, rfl, rfl, rfl, rfl⟩)
  · exact .inr ⟨r, target, idle, h⟩

/-- An event of the host that changes a data register is an idle 4-byte write to it, by line or by address. -/
theorem performEvent_changes_readReg {e : Event} {r : Reg} (hr : r.isData = true) (h : performEvent e s = .next t)
    (changed : t.readReg r ≠ s.readReg r) :
    s.busy = false ∧ ∃ v, e = .line (.wr r.offset v) ∨ e = .write (Config.base + r.offset) 4 v := by
  obtain ⟨off, n, v, event, rfl⟩ | ⟨off, n, use, -, rfl⟩ := performEvent_cases h
  · obtain same | ⟨k, target, idle, write⟩ := memWrite_sameData_or_writeReg off n v s
    · exact absurd (same.readReg hr) changed
    · have written : r = k := by
        by_contra other
        exact changed (write ▸ s.readReg_writeReg_other k r v other)
      subst written
      exact ⟨idle, v, event_of_write_target event target⟩
  · have same : s.SameData (use.run (memRead off n s).1 (memRead off n s).2) :=
      State.sameData_of_pendingView (by rw [ReadUse.run_pendingView, memRead_pendingView])
    exact absurd (same.readReg hr) changed

/-- Settles O49: by what a step can be; a cycle changes no register, a completion those of its command's row, and an
event the one it writes. -/
theorem onlyTheseEventsChangeARegister : Obligations.OnlyTheseEventsChangeARegister := by
  intro s t r hr hs changed
  obtain ⟨reset, -⟩ | ⟨i, turn, hx⟩ | ⟨-, -, rfl⟩ | ⟨e, rest, turn, inputs, he⟩ := step_cases hs
  · exact .inr (.inr (State.turn_eq_reset.mpr reset))
  · have passed : s.passStep.readReg r = s.readReg r := State.SameData.readReg ⟨rfl, rfl, rfl, rfl, rfl⟩ hr
    have written : i.writes r = true := by
      by_contra unwritten
      exact changed ((exec_readReg_of_not_writes hx hr (eq_false_of_ne_true unwritten)).trans passed)
    exact .inl ⟨i, turn, written⟩
  · exact absurd (State.SameData.readReg ⟨rfl, rfl, rfl, rfl, rfl⟩ hr) changed
  · rw [← s.readReg_takeEvent rest] at changed
    obtain ⟨idle, v, event⟩ := performEvent_changes_readReg hr he changed
    refine .inr (.inl ⟨turn, idle, v, rest, ?_⟩)
    rw [inputs]
    exact event.imp (congrArg (· :: rest)) (congrArg (· :: rest))

/-! ### What ends idleness -/

/-- A write leaves the pending command and `BUSY`, unless it is one to `CMD` whose command is accepted (R33). -/
theorem memWrite_keeps_pending_or_accepts (off : BitVec 9) (n : Nat) (v : Word) (s : State) :
    ((memWrite off n v s).pending = s.pending ∧ (memWrite off n v s).busy = s.busy) ∨
      ∃ i, accessTarget off n = some .cmd ∧ decode v = .command i ∧ memWrite off n v s = s.accept i := by
  obtain ⟨-, h⟩ | ⟨-, h⟩ | ⟨_, -, -, -, h⟩ | ⟨_, -, -, -, h⟩ | ⟨i, target, -, command, h⟩ | ⟨r, -, -, -, h⟩ :=
    memWrite_cases off n v s
  · exact .inl (h ▸ ⟨rfl, rfl⟩)
  · obtain ⟨-, h'⟩ | ⟨-, h'⟩ := s.writeStatus_cases v <;> simp [h, h']
  · exact .inl (h ▸ ⟨rfl, rfl⟩)
  · exact .inl (h ▸ ⟨rfl, rfl⟩)
  · exact .inr ⟨i, target, command, h⟩
  · obtain ⟨busy, -, -, pending, -⟩ := s.writeReg_frame r v
    exact .inl (h ▸ ⟨pending, busy⟩)

/-- An event of the host leaves an idle unit idle, unless it writes to `CMD` the word of the command then pending. -/
theorem performEvent_idle_or_accepted {e : Event} (idle : s.Idle) (h : performEvent e s = .next t) :
    t.Idle ∨ ∃ c i, decode c = .command i ∧ t.pending = some i ∧
      (e = .line (.wr 0x1C0 c) ∨ e = .write (Config.base + 0x1C0) 4 c) := by
  obtain ⟨pending, busy⟩ := idle
  obtain ⟨off, n, c, event, rfl⟩ | ⟨off, n, use, -, rfl⟩ := performEvent_cases h
  · obtain ⟨pending', busy'⟩ | ⟨i, target, command, accepted⟩ := memWrite_keeps_pending_or_accepts off n c s
    · exact .inl ⟨pending'.trans pending, busy'.trans busy⟩
    · exact .inr ⟨c, i, command, accepted ▸ s.accept_pending i, event_of_write_target event target⟩
  · have view : (use.run (memRead off n s).1 (memRead off n s).2).pendingView = s.pendingView := by
      rw [ReadUse.run_pendingView, memRead_pendingView]
    exact .inl ⟨(congrArg State.pending view).trans pending, (congrArg State.busy view).trans busy⟩

/-- Settles O48: by what a step can be; a reset and a completion leave the unit idle, a cycle leaves it as it was. -/
theorem idleUntilAcceptedCommand : Obligations.IdleUntilAcceptedCommand := by
  intro s t idle hs
  obtain ⟨-, rfl⟩ | ⟨i, -, hx⟩ | ⟨-, -, rfl⟩ | ⟨e, rest, -, inputs, he⟩ := step_cases hs
  · exact .inl ⟨rfl, rfl⟩
  · obtain ⟨pending, busy, -⟩ := exec_completed hx
    exact .inl ⟨pending, busy⟩
  · exact .inl idle
  · refine (performEvent_idle_or_accepted (s := s.passStep.takeEvent rest) idle he).imp_right ?_
    rintro ⟨c, i, command, pending, event⟩
    refine ⟨c, i, rest, command, pending, ?_⟩
    rw [inputs]
    exact event.imp (congrArg (· :: rest)) (congrArg (· :: rest))

/-! ### Reads while busy -/

/-- A busy read of a result register is the next free value and counts it (R207). -/
theorem memRead_busy_drawn {r : Reg} (hr : r.drawnWhenBusy = true) (hb : s.busy = true) :
    memRead (BitVec.ofNat 9 r.offset) 4 s = (Config.busyRead s.draws, s.bumpDraws) := by
  simp [memRead, hr, hb]

/-- A read of a register that is not drawn while busy is its value, idle or busy, and changes nothing (R207). -/
theorem memRead_not_drawn {r : Reg} (hr : r.drawnWhenBusy = false) (s : State) :
    memRead (BitVec.ofNat 9 r.offset) 4 s = (s.readReg r, s) := by
  simp [memRead, hr]

/-- Settles O36: the drawn registers, the message registers, `STATUS` and `CMD`. -/
theorem busyReadsAreDraws : Obligations.BusyReadsAreDraws :=
  fun s hb => ⟨fun _ hr => memRead_busy_drawn hr hb, fun l i => memRead_not_drawn (r := .msg l i) rfl s,
    memRead_status s, memRead_cmd s⟩

/-! ### The reset event -/

/-- After a reset each data register holds the free value drawn for it (R200). -/
theorem State.readReg_resetUnit (s : State) {r : Reg} (hr : r.isData = true) :
    s.resetUnit.readReg r = Config.resetReg s.draws r := by
  cases r with
  | msg _ _ | dig _ _ | seed _ => simp [State.readReg]
  | lcgLo | lcgHi => rfl
  | cmd | status => cases hr

/-- Settles O42: the step is the reset event, whatever is due and whatever the host would do. -/
theorem resetEventAbandonsCommand : Obligations.ResetEventAbandonsCommand :=
  fun s due => ⟨s.resetUnit, step_of_reset due, rfl, rfl, rfl, rfl, fun _ hr => s.readReg_resetUnit hr, rfl, rfl, rfl⟩

/-! ### The resets to come

Between two resets the machine does not look at those to come: whatever a command, an access or an event does, it does
with any others to come as well. -/

/-- The state with other resets to come. -/
def State.withResets (s : State) (rs : List Nat) : State := { s with resets := rs }

variable (rs : List Nat)

theorem exec_withResets {i : Instr} (h : exec i s = .next t) : exec i (s.withResets rs) = .next (t.withResets rs) := by
  cases i <;> cases h <;> rfl

/-- No register's value depends on the resets to come. -/
theorem State.withResets_readReg (s : State) (r : Reg) : (s.withResets rs).readReg r = s.readReg r := by
  cases r <;> rfl

theorem State.withResets_writeReg (s : State) (r : Reg) (v : Word) :
    (s.withResets rs).writeReg r v = (s.writeReg r v).withResets rs := by
  cases r <;> rfl

theorem memRead_withResets (off : BitVec 9) (n : Nat) (s : State) :
    memRead off n (s.withResets rs) = ((memRead off n s).1, (memRead off n s).2.withResets rs) := by
  obtain ⟨bad, h⟩ | ⟨r, target, busy, drawn, h⟩ | ⟨r, target, undrawn, h⟩ := memRead_cases off n s <;> rw [h]
  · exact memRead_of_badAccess ((accessTarget_eq_none off n).mp bad) _
  all_goals obtain ⟨rfl, rfl⟩ := accessTarget_eq_some target
  · exact memRead_busy_drawn (s := s.withResets rs) drawn busy
  · rw [← s.withResets_readReg rs r]
    exact undrawn.elim (fun idle => memRead_idle r (s := s.withResets rs) idle) fun hr => memRead_not_drawn hr _

theorem State.withResets_writeStatus (s : State) (v : Word) :
    (s.withResets rs).writeStatus v = (s.writeStatus v).withResets rs := by
  unfold State.writeStatus
  split_ifs <;> rfl

theorem memWrite_withResets (off : BitVec 9) (n : Nat) (v : Word) (s : State) :
    memWrite off n v (s.withResets rs) = (memWrite off n v s).withResets rs := by
  obtain ⟨bad, h⟩ | ⟨target, h⟩ | ⟨r, target, hr, busy, h⟩ | ⟨why, target, idle, illegal, h⟩ |
    ⟨i, target, idle, command, h⟩ | ⟨r, target, data, idle, h⟩ := memWrite_cases off n v s <;> rw [h]
  · exact memWrite_of_badAccess ((accessTarget_eq_none off n).mp bad) v _
  all_goals obtain ⟨rfl, rfl⟩ := accessTarget_eq_some target
  · exact (memWrite_status v _).trans (s.withResets_writeStatus rs v)
  · exact memWrite_busy (s := s.withResets rs) hr busy v
  · exact memWrite_cmd_illegal (s := s.withResets rs) illegal idle
  · exact memWrite_cmd_accept (s := s.withResets rs) command idle
  · exact (memWrite_idle_data data v (s := s.withResets rs) idle).trans (s.withResets_writeReg rs r v)

theorem hostWrite_withResets {off? : Option (BitVec 9)} {at_ n : Nat} {v : Word}
    (h : hostWrite off? at_ n v s = .next t) : hostWrite off? at_ n v (s.withResets rs) = .next (t.withResets rs) := by
  cases off? with
  | none => cases h
  | some off =>
    cases h
    exact congrArg _ (memWrite_withResets rs off n v s)

theorem hostRead_withResets {off? : Option (BitVec 9)} {at_ n : Nat} {use : Word → State → State}
    (huse : ∀ w u, use w (u.withResets rs) = (use w u).withResets rs) (h : hostRead off? at_ n use s = .next t) :
    hostRead off? at_ n use (s.withResets rs) = .next (t.withResets rs) := by
  cases off? with
  | none => cases h
  | some off =>
    cases h
    rw [hostRead, memRead_withResets, huse]

theorem pollAgain_withResets (off : Nat) (mask val w : Word) (s : State) :
    pollAgain off mask val w (s.withResets rs) = (pollAgain off mask val w s).withResets rs := by
  unfold pollAgain
  split_ifs <;> rfl

theorem performEvent_withResets {e : Event} (h : performEvent e s = .next t) :
    performEvent e (s.withResets rs) = .next (t.withResets rs) := by
  cases e with
  | line l =>
    cases l with
    | wr off v => exact hostWrite_withResets rs (off? := windowOffset off) h
    | rd off dst => exact hostRead_withResets rs (use := fun w u => u.setVal dst w) (fun _ _ => rfl) h
    | poll off mask val => exact hostRead_withResets rs (pollAgain_withResets rs off mask val) h
  | read addr n dst => exact hostRead_withResets rs (use := fun w u => u.setVal dst w) (fun _ _ => rfl) h
  | write addr n v => exact hostWrite_withResets rs (off? := addressOffset Config.base addr) h

/-- An event leaves the resets to come. -/
theorem performEvent_resets {e : Event} (h : performEvent e s = .next t) : t.resets = s.resets := by
  have same : performEvent e s = .next (t.withResets s.resets) := performEvent_withResets s.resets h
  rw [h] at same
  injection same with same
  rw [same]
  rfl

/-! ### One reset to come -/

/-- A reset to come later does not change whose turn it is. -/
theorem State.turn_withResets_succ (hs : s.resets = []) (k : Nat) : (s.withResets [k + 1]).turn = s.turn := by
  have now : s.resetDue = false := by simp [State.resetDue, hs]
  have later : (s.withResets [k + 1]).resetDue = false := by simp [State.resetDue, State.withResets]
  have due : (s.withResets [k + 1]).due = s.due := rfl
  rw [State.turn, State.turn, now, later, due]

/-- A step that no reset is to follow is the same with one to come later, which it brings one step nearer (R201). -/
theorem step_withResets (hs : s.resets = []) (h : step s = .next t) (k : Nat) :
    t.resets = [] ∧ step (s.withResets [k + 1]) = .next (t.withResets [k]) := by
  have pass : s.passStep = s := State.passStep_of_no_resets hs
  have turn := State.turn_withResets_succ hs k
  obtain ⟨reset, -⟩ | ⟨i, hturn, hx⟩ | ⟨hturn, hi, rfl⟩ | ⟨e, rest, hturn, hi, he⟩ := step_cases h
  · simp [State.resetDue, hs] at reset
  · rw [pass] at hx
    obtain ⟨-, -, -, -, -, resets, -⟩ := exec_completed hx
    obtain ⟨notDue, due⟩ := State.turn_eq_unit.mp (turn.trans hturn)
    exact ⟨resets.trans hs, (step_of_unit notDue due).trans (exec_withResets (s := s) [k] hx)⟩
  · rw [pass]
    exact ⟨hs, step_of_host_nil (turn.trans hturn) hi⟩
  · rw [pass] at he
    exact ⟨(performEvent_resets he).trans hs,
      (step_of_host_cons (turn.trans hturn) hi).trans (performEvent_withResets [k] he)⟩

/-- A run of one step and more that answers a next state takes the step and runs on from where it leads. -/
theorem core_run_succ_eq_next {k : Nat} (h : Sys2Proof.core.run (k + 1) s = .next t) :
    ∃ u, step s = .next u ∧ Sys2Proof.core.run k u = .next t := by
  cases hs : step s with
  | next u => exact ⟨u, rfl, (core_run_of_next hs k).symm.trans h⟩
  | fault r => cases r
  | refused r =>
    have hs' : Sys2Proof.core.step s = .refused r := hs
    simp [Host.Core.run, hs'] at h

/-- Settles O60: by induction on the steps before the reset, each the same as without it. -/
theorem resetMayComeBetweenAnyTwoSteps : Obligations.ResetMayComeBetweenAnyTwoSteps := by
  intro s t k hs h
  induction k generalizing s with
  | zero =>
    cases h
    refine ⟨rfl, core_run_of_next ((step_of_reset rfl).trans ?_) 0⟩
    simp [State.resetUnit, hs]
  | succ k ih =>
    obtain ⟨u, hu, hrun⟩ := core_run_succ_eq_next h
    obtain ⟨none_left, hstep⟩ := step_withResets hs hu k
    obtain ⟨asserted, reset⟩ := ih u none_left hrun
    exact ⟨(core_run_of_next hstep k).trans asserted, (core_run_of_next hstep (k + 1)).trans reset⟩

end Sys2Proof.Machine
end
